-- ==== Sys2Proof/Word.lean ====
section
/-! DEFINITION. The words of the hardware: bytes and nibbles (00_scope.md R6, 10_state.md R11). -/

namespace Sys2Proof

/-- A byte: "A byte is 8 bits, unsigned" (R11). Every transmitted unit is one byte (R5). -/
abbrev Byte := BitVec 8

/-- A nibble: "4-bit half of a byte" (glossary of 00_scope.md). -/
abbrev Nibble := BitVec 4

end Sys2Proof
end

