-- ==== Sys2Proof/Config.lean ====
section
/-! DEFINITION. The configuration record `Cfg` of 00_scope.md R5: everything the document does not fix as a
number, or fixes only as an unaudited literal (R9). The defaults of R5 are `standard` in Machine/Standard.lean. -/

namespace Sys2Proof

/-- A timing parameter of R5, in nanoseconds: the minimum the document requires (absent where it states none)
and the value it says to use. -/
structure Hold where
  min : Option Nat
  use : Nat
deriving DecidableEq, Repr

/-- The parameter `BUS_OUTCOME` of R5 (60_exceptions.md R152): what the transport does with a failure. No rule of
the block depends on it. -/
inductive BusOutcome where
  /-- The default: the transport always returns and its answer is ignored. -/
  | ignored
  /-- A transport that reports failures; the block does not look. -/
  | reports
  /-- A transport that throws; what then happens to the host is outside the block. -/
  | throws
deriving DecidableEq, Repr

/-- The configuration record of R5. `σ` is the state that the predicate `WRITE_FAILS` looks at. -/
structure Cfg (σ : Type) where
  /-- Bits of an expander byte that carry the nibble. -/
  dataMask : Byte
  /-- Register select: 0 command, 1 data (92 D4). -/
  rsMask : Byte
  /-- Read/write line; no rule of tiers 1 to 3 sets it (92 D5). -/
  rwMask : Byte
  /-- Enable line (92 D5). -/
  enMask : Byte
  /-- Backlight (92 D5). -/
  blMask : Byte
  /-- Controller command literals (R5, R64). -/
  clearDisplay : Byte
  returnHome : Byte
  entryModeSet : Byte
  displayControl : Byte
  cursorShift : Byte
  functionSet : Byte
  setCgramAddr : Byte
  setDdramAddr : Byte
  /-- Flags of the FUNCTIONSET command. -/
  mode8Bit : Byte
  mode4Bit : Byte
  lines2 : Byte
  lines1 : Byte
  dots5x10 : Byte
  dots5x8 : Byte
  /-- Flags of the DISPLAYCONTROL command. -/
  displayOn : Byte
  cursorOn : Byte
  blinkOn : Byte
  /-- Flags of the ENTRYMODESET command. -/
  entryLeft : Byte
  entryShiftIncrement : Byte
  /-- Flags of the CURSORSHIFT command. -/
  displayMove : Byte
  moveRight : Byte
  moveLeft : Byte
  /-- Row bases of `BEGIN` step 3. -/
  rowBase0 : Byte
  rowBase1 : Byte
  /-- Nibbles of `BEGIN` steps 6 and 7. -/
  initNibble8Bit : Nibble
  initNibble4Bit : Nibble
  /-- Size of the row-offset table. -/
  nRowOffsets : Nat
  /-- Number of CGRAM glyph slots. -/
  nCgramSlots : Nat
  /-- Timing parameters (R5, 70_reset_and_hazards.md R180). -/
  tPower : Hold
  tSettle : Hold
  tInit1 : Hold
  tInit2 : Hold
  tInit3 : Hold
  tEnHigh : Hold
  tEnLow : Hold
  tSlow : Hold
  /-- The large-font request copied into `char_size_flag` by `CONSTRUCT` (92 D20). -/
  largeFont : Bool
  /-- `WRITE_FAILS`: does the `DAT` of this byte fail in this state (92 D15). -/
  writeFails : σ → Byte → Bool
  /-- `BUS_OUTCOME` (92 D15). -/
  busOutcome : BusOutcome

end Sys2Proof
end

