-- ==== Sys2Proof/Syntax.lean ====
section
/-! DEFINITION. The instructions: one constructor for each row of spec/opcode_table.json, in the table's order.
The table holds three encodings: requests (format REQ, 30_encoding.md R70, R71), controller command bytes (format
HDCMD, R64) and the expander byte (format XBYTE, R60). -/

namespace Sys2Proof

/-- The operand `mode` of `SEND` (30_encoding.md R72): command or data. -/
inductive Mode where
  | command
  | data
deriving DecidableEq, Repr

/-- The operand `dir` of `SCROLL` (R72). -/
inductive Direction where
  | left
  | right
deriving DecidableEq, Repr

/-- The bitmap operand of `CREATECHAR`: exactly 8 bytes (42_display_ops.md R143, R144 d). -/
structure Bitmap where
  b0 : Byte
  b1 : Byte
  b2 : Byte
  b3 : Byte
  b4 : Byte
  b5 : Byte
  b6 : Byte
  b7 : Byte
deriving DecidableEq, Repr

/-- The bitmap bytes in the order they are sent. -/
def Bitmap.toList (m : Bitmap) : List Byte :=
  [m.b0, m.b1, m.b2, m.b3, m.b4, m.b5, m.b6, m.b7]

inductive Instr where
  /- Requests (R70, R71). -/
  | xwr (d : Byte)
  | w4 (v : Byte)
  | cmd (v : Byte)
  | dat (v : Byte)
  | send (v : Byte) (mode : Mode)
  | construct (addr cols rows : Byte)
  | begin
  | clear
  | home
  | backlight (on : Bool)
  | display (on : Bool)
  | cursor (on : Bool)
  | blink (on : Bool)
  | scroll (dir : Direction)
  | textDir (ltr : Bool)
  | autoscroll (on : Bool)
  | createChar (slot : Byte) (bitmap : Bitmap)
  | setCursor (col row : Byte)
  | print (text : List Byte)
  | printNull
  /- Controller command bytes (R64), fields from the high bit down. -/
  | clearDisplay
  | returnHome
  | entryModeSet (i s : Bool)
  | displayControl (d c b : Bool)
  | cursorShift (m r : Bool)
  | functionSet (w n f : Bool)
  | setCgramAddr (a : BitVec 6)
  | setDdramAddr (a : BitVec 7)
  /- The expander byte `DDDDLEWS` (R60). -/
  | xbyte (data : Nibble) (l e w s : Bool)
deriving DecidableEq, Repr

/-- What the host can hand the block: one word of one of the table's three encodings. `request` is the request
port's byte string (R71). The other two are the model's own way to hand over a command byte or an expander byte in
abstract form (R70 lets a model take requests in abstract form; notes/assumptions/7.md). -/
inductive Presented where
  | request (bytes : List Byte)
  | command (b : Byte)
  | expander (b : Byte)
deriving DecidableEq, Repr

end Sys2Proof
end

