-- ==== Sys2Proof/Machine/State.lean ====
section
/-! DEFINITION. The state of the block as plain data (10_state.md), the events it shows (00_scope.md R8), the state
right after reset (R35, 70_reset_and_hazards.md R170), and the reasons a step can stop. -/

namespace Sys2Proof.Machine

/-- The events, in the order the block appends them (00_scope.md R8): "The only things the block does that anything
outside it can see". Times are nanoseconds; a hold's minimum may be absent. -/
inductive Event where
  | openChannel
  | txn (addr byte : Byte)
  | delay (min : Option Nat) (use : Nat)
deriving DecidableEq, Repr

/-- `S.phase` (10_state.md R22). -/
inductive Phase where
  | unconstructed
  | constructed
  | begun
deriving DecidableEq, Repr

/-- The conditions of 60_exceptions.md R153 under which a request is refused. -/
inductive RefusalReason where
  /-- F1: any request but `CONSTRUCT` while Unconstructed. -/
  | unconstructed
  /-- F2: any request but `BEGIN` and `CONSTRUCT` while Constructed. -/
  | notBegun
  /-- F3: `CONSTRUCT` with `rows = 0`. -/
  | zeroRows
  /-- F4: `CONSTRUCT` while Constructed or Begun. -/
  | alreadyConstructed
  /-- F5: an encoding without a meaning (30_encoding.md R73). -/
  | badEncoding
  /-- F6: a request presented while `S.busy == 1`. -/
  | busy
deriving DecidableEq, Repr

/-- What the response port carries when an operation completes (30_encoding.md R70): completion, and for `PRINT`
and `DAT` a count. -/
inductive Response where
  | done
  | count (n : Nat)
deriving DecidableEq, Repr

/-- One write of a DeviceState field or of the phase (10_state.md R24). -/
inductive FieldWrite where
  | i2cAddress (b : Byte)
  | columns (b : Byte)
  | rows (b : Byte)
  | charSizeFlag (f : Bool)
  | backlightFlag (f : Bool)
  | functionFlags (b : Byte)
  | controlFlags (b : Byte)
  | entryModeFlags (b : Byte)
  | rowOffset (i : Fin 4) (b : Byte)
  | phase (p : Phase)
deriving DecidableEq, Repr

/-- One step of an operation's expansion (30_encoding.md R77): the three that emit an event, and the three that
emit none. -/
inductive Micro where
  /-- `Open()` (20_memory.md R55). -/
  | openChannel
  /-- `XWR d` (40_sequencer_core.md R90). -/
  | xwr (d : Byte)
  /-- `Delay(h)` (00_scope.md R7). -/
  | hold (h : Hold)
  /-- `S.f <- v`. -/
  | write (w : FieldWrite)
  /-- `n <- 0` of `PRINT` (42_display_ops.md R146). -/
  | startCount
  /-- The end of a counted `DAT b`: it returns 1 and is counted, or 0 and the operation returns (R99, R146). -/
  | tally (b : Byte)
deriving DecidableEq, Repr

/-- The expansion of an operation, in order. -/
abbrev Program := List Micro

/-- `S.row_offsets[0..3]`, the indexed registers `x[0]` to `x[3]` (10_state.md R20). -/
structure RowOffsets where
  x0 : Option Byte
  x1 : Option Byte
  x2 : Option Byte
  x3 : Option Byte
deriving DecidableEq, Repr

/-- The state `S` (10_state.md R10). A field that nothing has written holds no value, "an absent option, never as
zero" (R23). After `refused` stand the model's own fields: what an operation in progress still has to do,
what the ports carry (notes/assumptions/5, 9, 11, 12). -/
structure State where
  /-- R12: the bus address of the expander. -/
  i2cAddress : Option Byte
  /-- R13: the number of character columns. -/
  columns : Option Byte
  /-- R14: the number of display lines. -/
  rows : Option Byte
  /-- R15: the 5x10-dot font was requested. -/
  charSizeFlag : Option Bool
  /-- R16: the backlight is on. -/
  backlightFlag : Option Bool
  /-- R17: the flag part of FUNCTIONSET. -/
  functionFlags : Option Byte
  /-- R18: the flag part of DISPLAYCONTROL. -/
  controlFlags : Option Byte
  /-- R19: the flag part of ENTRYMODESET. -/
  entryModeFlags : Option Byte
  /-- R20: the DDRAM start address of each line. -/
  rowOffsets : RowOffsets
  /-- R22: the lifecycle phase. -/
  phase : Phase
  /-- R25: an operation is in progress. -/
  busy : Bool
  /-- R26: the sequencer's position, the index of the next event of the operation in progress. -/
  upc : Nat
  /-- R27: the events so far, oldest first. -/
  trace : List Event
  /-- R28: sticky, a request had no meaning. -/
  refused : Bool
  /-- What is left of the operation in progress (R26, R31). -/
  running : Program
  /-- The count of a `PRINT` or `DAT` in progress (42_display_ops.md R146). -/
  count : Option Nat
  /-- The response port's record, oldest first (30_encoding.md R70, 70_reset_and_hazards.md R183). -/
  responses : List Response
  /-- The reason recorded for the latest refusal (60_exceptions.md R154). -/
  lastRefusal : Option RefusalReason
  /-- What the host presents, next first (30_encoding.md R70). -/
  inbox : List Presented
deriving DecidableEq, Repr

/-- The block right after power-on (70_reset_and_hazards.md R170, 10_state.md R35): every DeviceState field without
a value, phase Unconstructed, `busy`, `upc` and `refused` 0, the trace empty; the model's own fields empty. -/
def State.reset : State where
  i2cAddress := none
  columns := none
  rows := none
  charSizeFlag := none
  backlightFlag := none
  functionFlags := none
  controlFlags := none
  entryModeFlags := none
  rowOffsets := ⟨none, none, none, none⟩
  phase := .unconstructed
  busy := false
  upc := 0
  trace := []
  refused := false
  running := []
  count := none
  responses := []
  lastRefusal := none
  inbox := []

/-- Why the machine stops with a fault: never. "The block raises no synchronous exception" (60_exceptions.md R150),
takes no interrupt (R155) and has no trap (R156), so the type has no constructor. -/
inductive Fault
deriving DecidableEq, Repr

/-- Why the model has no meaning for an instruction. -/
inductive Refusal where
  /-- Raised by an arm of `exec` whose instruction has no meaning in the model yet; safe, since nothing can be proved
  of what it does. No arm raises it. -/
  | notModelled (mnemonic : String)
deriving DecidableEq, Repr

/-- What a step answers. -/
abbrev Result := Host.Outcome State Fault Refusal

end Sys2Proof.Machine
end

