-- ==== Sys2Proof/Machine/Standard.lean ====
section
/-! DEFINITION. The default configuration of 00_scope.md R5. It stands under Machine/ because its numbers are
unaudited (R9): a repair may change them here. -/

namespace Sys2Proof.Machine

/-- The configuration of this machine's operations: `WRITE_FAILS` looks at the state (R5). -/
abbrev Config := Cfg State

/-- The defaults of R5. Masks other than `DATA_MASK` and `RS_MASK`, and all command and flag literals, are the
spec's general knowledge (92 D4 to D6), UNVERIFIED; timing is 92 D7, D8. -/
def standard : Config where
  dataMask := 0xF0
  rsMask := 0x01
  rwMask := 0x02
  enMask := 0x04
  blMask := 0x08
  clearDisplay := 0x01
  returnHome := 0x02
  entryModeSet := 0x04
  displayControl := 0x08
  cursorShift := 0x10
  functionSet := 0x20
  setCgramAddr := 0x40
  setDdramAddr := 0x80
  mode8Bit := 0x10
  mode4Bit := 0x00
  lines2 := 0x08
  lines1 := 0x00
  dots5x10 := 0x04
  dots5x8 := 0x00
  displayOn := 0x04
  cursorOn := 0x02
  blinkOn := 0x01
  entryLeft := 0x02
  entryShiftIncrement := 0x01
  displayMove := 0x08
  moveRight := 0x04
  moveLeft := 0x00
  rowBase0 := 0x00
  rowBase1 := 0x40
  initNibble8Bit := 0x3
  initNibble4Bit := 0x2
  nRowOffsets := 4
  nCgramSlots := 8
  tPower := ⟨some 40000000, 50000000⟩
  tSettle := ⟨none, 1000000000⟩
  tInit1 := ⟨some 4500000, 4500000⟩
  tInit2 := ⟨some 4500000, 4500000⟩
  tInit3 := ⟨some 150000, 150000⟩
  tEnHigh := ⟨some 450, 1000⟩
  tEnLow := ⟨some 37000, 50000⟩
  tSlow := ⟨some 2000000, 2000000⟩
  largeFont := false
  writeFails := fun _ _ => false
  busOutcome := .ignored

/-- Another predicate for failing writes (92 D15). -/
def Config.withWriteFails (c : Config) (f : State → Byte → Bool) : Config :=
  { c with writeFails := f }

/-- Another font request (92 D20). -/
def Config.withLargeFont (c : Config) (f : Bool) : Config :=
  { c with largeFont := f }

/-- Another transport (92 D15). -/
def Config.withBusOutcome (c : Config) (o : BusOutcome) : Config :=
  { c with busOutcome := o }

end Sys2Proof.Machine
end

