-- ==== Sys2Proof/Machine/Operands.lean ====
section
/-! DEFINITION. How operands become bytes: the bit packing of 30_encoding.md R61, the assembly of command bytes
(R65) and the only operand conditioning there is (R74): the clamp of `row` and the mask of `slot`.
Where a rule's pseudocode writes the default of a parameter of R5 as a number (`0xF0`, `0x07`), the parameter
stands here (notes/assumptions/3.md). -/

namespace Sys2Proof.Machine

/-- `f ? m : 0x00`. -/
def flag (m : Byte) (f : Bool) : Byte :=
  if f then m else 0x00

/-- `BLM(S) = S.backlight_flag ? BL_MASK : 0x00` (10_state.md R16) for the flag's value. -/
def backlightMask (c : Config) (on : Bool) : Byte :=
  flag c.blMask on

/-- `m <- (mode == 1) ? RS_MASK : 0x00` (40_sequencer_core.md R96). -/
def modeMask (c : Config) : Mode → Byte
  | .command => 0x00
  | .data => c.rsMask

/-- `hi <- (v & 0xF0) | m` (R96): `v[7:4]` in bits 7:4. -/
def highNibbleByte (c : Config) (v : Byte) (m : Mode) : Byte :=
  (v &&& c.dataMask) ||| modeMask c m

/-- `lo <- ((v << 4) & 0xF0) | m` (R96): `v[3:0]` in bits 7:4. -/
def lowNibbleByte (c : Config) (v : Byte) (m : Mode) : Byte :=
  ((v <<< 4) &&& c.dataMask) ||| modeMask c m

/-- `nibble << 4`, the operand of a bring-up nibble frame (30_encoding.md R67). -/
def raisedNibble (n : Nibble) : Byte :=
  (n.setWidth 8) <<< 4

/-- The direction bit of `SCROLL` (42_display_ops.md R136). -/
def directionBit (c : Config) : Direction → Byte
  | .left => c.moveLeft
  | .right => c.moveRight

/-- `CURSORSHIFT | DISPLAYMOVE | dirbit` (R65, R136). -/
def scrollCommand (c : Config) (dir : Direction) : Byte :=
  c.cursorShift ||| c.displayMove ||| directionBit c dir

/-- The two saturating clamps of `SETCURSOR`, to the table's size and then to `rows - 1` (R141). -/
def clampRow (c : Config) (rows row : Byte) : Nat :=
  min (min row.toNat (c.nRowOffsets - 1)) (rows.toNat - 1)

/-- `x[r]`: one entry of the row-offset table. -/
def RowOffsets.read (x : RowOffsets) : Nat → Option Byte
  | 0 => x.x0
  | 1 => x.x1
  | 2 => x.x2
  | 3 => x.x3
  | _ => none

/-- `x[i] <- b`. -/
def RowOffsets.write (x : RowOffsets) (i : Fin 4) (b : Byte) : RowOffsets :=
  match i with
  | 0 => { x with x0 := some b }
  | 1 => { x with x1 := some b }
  | 2 => { x with x2 := some b }
  | 3 => { x with x3 := some b }

/-- `SETDDRAMADDR | ((col + x[r]) & 0xFF)` (R141): the sum is modulo 256 and not masked to 7 bits. -/
def ddramCommand (c : Config) (col offset : Byte) : Byte :=
  c.setDdramAddr ||| (col + offset)

/-- `s <- slot & 0x07` (R143, R144): masked, not saturated. -/
def maskSlot (c : Config) (slot : Byte) : Byte :=
  slot &&& BitVec.ofNat 8 (c.nCgramSlots - 1)

/-- `SETCGRAMADDR | (s << 3)` (R143). -/
def glyphCommand (c : Config) (slot : Byte) : Byte :=
  c.setCgramAddr ||| (maskSlot c slot <<< 3)

/-- The expander byte with the given lines, built from the masks (30_encoding.md R60). -/
def expanderByte (c : Config) (data : Nibble) (l e w s : Bool) : Byte :=
  (raisedNibble data &&& c.dataMask) ||| flag c.blMask l ||| flag c.enMask e ||| flag c.rwMask w
    ||| flag c.rsMask s

end Sys2Proof.Machine
end

