-- ==== Sys2Proof/Machine/Flags.lean ====
section
/-! DEFINITION. The flag registers: what `BEGIN` puts into them (41_lifecycle.md R112), how a toggle changes one bit
(42_display_ops.md R124), and the command bytes that carry their bits (30_encoding.md R64, R65). -/

namespace Sys2Proof.Machine

/-- `BEGIN` step 2 (R112): 4-bit mode, two lines when `rows > 1`, 5x10 dots only when the large font was requested
and `rows == 1`. -/
def bringUpFunctionFlags (c : Config) (rows : Byte) (largeFont : Bool) : Byte :=
  c.mode4Bit ||| (if rows.toNat > 1 then c.lines2 else c.lines1)
    ||| (if largeFont = true ∧ rows.toNat = 1 then c.dots5x10 else c.dots5x8)

/-- The read-modify-write of a toggle (R124): `F | M` if on, `F & ~M` if off. -/
def toggled (f m : Byte) (on : Bool) : Byte :=
  if on then f ||| m else f &&& ~~~m

/-- The ENTRYMODESET byte with the given flag bits (R64, R65). -/
def entryModeCommand (c : Config) (i s : Bool) : Byte :=
  c.entryModeSet ||| flag c.entryLeft i ||| flag c.entryShiftIncrement s

/-- The DISPLAYCONTROL byte with the given flag bits (R64, R65). -/
def displayControlCommand (c : Config) (d u b : Bool) : Byte :=
  c.displayControl ||| flag c.displayOn d ||| flag c.cursorOn u ||| flag c.blinkOn b

/-- The CURSORSHIFT byte with the given bits (R64, R65). -/
def cursorShiftCommand (c : Config) (m r : Bool) : Byte :=
  c.cursorShift ||| flag c.displayMove m ||| (if r then c.moveRight else c.moveLeft)

/-- The FUNCTIONSET byte with the given bits (R64, R65). -/
def functionSetCommand (c : Config) (w n f : Bool) : Byte :=
  c.functionSet ||| (if w then c.mode8Bit else c.mode4Bit) ||| (if n then c.lines2 else c.lines1)
    ||| (if f then c.dots5x10 else c.dots5x8)

/-- The command byte of a controller command row under a configuration: the command's literal ORed with its operand
(R65); none for every other instruction. -/
def controllerCommand (c : Config) : Instr → Option Byte
  | .clearDisplay => some c.clearDisplay
  | .returnHome => some c.returnHome
  | .entryModeSet i s => some (entryModeCommand c i s)
  | .displayControl d u b => some (displayControlCommand c d u b)
  | .cursorShift m r => some (cursorShiftCommand c m r)
  | .functionSet w n f => some (functionSetCommand c w n f)
  | .setCgramAddr a => some (c.setCgramAddr ||| a.setWidth 8)
  | .setDdramAddr a => some (c.setDdramAddr ||| a.setWidth 8)
  | .xwr _ | .w4 _ | .cmd _ | .dat _ | .send _ _ | .construct _ _ _ | .begin | .clear | .home => none
  | .backlight _ | .display _ | .cursor _ | .blink _ | .scroll _ | .textDir _ | .autoscroll _ => none
  | .createChar _ _ | .setCursor _ _ | .print _ | .printNull | .xbyte _ _ _ _ _ => none

end Sys2Proof.Machine
end

