-- ==== Sys2Proof/Machine/Ops.lean ====
section
/-! DEFINITION. The primitives of 00_scope.md R7 over the state, the one place where a request is admitted or
refused (60_exceptions.md R153, R154), and how an admitted operation runs (10_state.md R25, R26). -/

namespace Sys2Proof.Machine

/-! ## Events -/

/-- Append one event: "each emitted event adds one" to `upc` (R26, R27). -/
def emit (e : Event) (s : State) : State :=
  { s with trace := s.trace ++ [e], upc := s.upc + 1 }

/-- `MemWrite(addr, 1, v)`: the one access, a bus write of one byte (20_memory.md R43). The transport's outcome is
not inspected (60_exceptions.md R152). -/
def memWrite (addr v : Byte) (s : State) : State :=
  emit (.txn addr v) s

/-- `Delay(h)` (R7). -/
def delay (h : Hold) (s : State) : State :=
  emit (.delay h.min h.use) s

/-- `XWR(d)`: `MemWrite(S.i2c_address, 1, d | BLM(S))` (40_sequencer_core.md R90). Where a field it reads holds no
value nothing is sent; no admitted operation gets there (`State.onBus`). -/
def transmit (c : Config) (d : Byte) (s : State) : State :=
  match s.i2cAddress, s.backlightFlag with
  | some addr, some on => memWrite addr (d ||| backlightMask c on) s
  | _, _ => s

/-! ## Fields -/

/-- `S.f <- v`. -/
def FieldWrite.apply (w : FieldWrite) (s : State) : State :=
  match w with
  | .i2cAddress b => { s with i2cAddress := some b }
  | .columns b => { s with columns := some b }
  | .rows b => { s with rows := some b }
  | .charSizeFlag f => { s with charSizeFlag := some f }
  | .backlightFlag f => { s with backlightFlag := some f }
  | .functionFlags b => { s with functionFlags := some b }
  | .controlFlags b => { s with controlFlags := some b }
  | .entryModeFlags b => { s with entryModeFlags := some b }
  | .rowOffset i b => { s with rowOffsets := s.rowOffsets.write i b }
  | .phase p => { s with phase := p }

/-- `n <- v` of `PRINT` (42_display_ops.md R146). -/
def setCount (n : Option Nat) (s : State) : State :=
  { s with count := n }

/-! ## Running an operation -/

/-- The state `WRITE_FAILS` looks at (00_scope.md R5): `S` of 10_state.md R10, without the model's own fields. -/
def State.architectural (s : State) : State :=
  { s with running := [], count := none, responses := [], lastRefusal := none, inbox := [] }

/-- The operation returns here: a counted `DAT` failed, so `PRINT` "stops early" (42_display_ops.md R146) and `DAT`
returns 0 (R99). Under the default configuration no write fails. -/
def Micro.stops (c : Config) (m : Micro) (s : State) : Bool :=
  match m with
  | .tally b => c.writeFails s.architectural b
  | .openChannel | .xwr _ | .hold _ | .write _ | .startCount => false

/-- The effect of one step of an expansion. -/
def Micro.run (c : Config) (m : Micro) (s : State) : State :=
  match m with
  | .openChannel => emit .openChannel s
  | .xwr d => transmit c d s
  | .hold h => delay h s
  | .write w => w.apply s
  | .startCount => setCount (some 0) s
  | .tally _ => setCount (s.count.map (· + 1)) s

/-- Run an expansion to its end, or to the failed write that ends it. -/
def drain (c : Config) : Program → State → State
  | [], s => s
  | m :: rest, s => if m.stops c s then s else drain c rest (m.run c s)

/-- Acceptance: "the operation sets `busy` to 1 on acceptance"; `upc` is 0 (R25, R26). -/
def accept (s : State) : State :=
  { s with busy := true, upc := 0, count := none }

/-- What the response port carries at completion. -/
def State.response (s : State) : Response :=
  match s.count with
  | some n => .count n
  | none => .done

/-- Completion: "after the last event it returns to 0 together with `busy`" (R26); the response is given (R70). -/
def finish (s : State) : State :=
  { s with busy := false, upc := 0, running := [], count := none, responses := s.responses ++ [s.response] }

/-- One operation, run whole, "atomically with respect to other requests" (92 D3). -/
def perform (c : Config) (p : Program) (s : State) : State :=
  finish (drain c p (accept s))

/-! ## Refusal and admission -/

/-- `refuse`: no field changes but the sticky bit, no event is appended, nothing is returned (R153); the reason is
recorded (R154). -/
def refuse (r : RefusalReason) (s : State) : State :=
  { s with refused := true, lastRefusal := some r }

/-- What an operation asks of the phase. -/
inductive Needs where
  /-- `CONSTRUCT`: phase Unconstructed. -/
  | unconstructed
  /-- `BEGIN`: phase Constructed or Begun. -/
  | constructed
  /-- Every other operation: phase Begun. -/
  | begun
deriving DecidableEq, Repr

/-- F1, F2 and F4 of R153. -/
def phaseRefusal (needs : Needs) (p : Phase) : Option RefusalReason :=
  match needs, p with
  | .unconstructed, .unconstructed => none
  | .unconstructed, .constructed => some .alreadyConstructed
  | .unconstructed, .begun => some .alreadyConstructed
  | .constructed, .unconstructed => some .unconstructed
  | .constructed, .constructed => none
  | .constructed, .begun => none
  | .begun, .unconstructed => some .unconstructed
  | .begun, .constructed => some .notBegun
  | .begun, .begun => none

/-- The first refusal condition that holds of a decoded request, in R154's order: F6, then F1, F2, F4 (F5 is the
decoder's and stands between F6 and these). -/
def admission (needs : Needs) (s : State) : Option RefusalReason :=
  if s.busy then some .busy else phaseRefusal needs s.phase

/-- `CONSTRUCT`'s admission: F3 comes last (R154). -/
def constructAdmission (rows : Byte) (s : State) : Option RefusalReason :=
  match admission .unconstructed s with
  | some r => some r
  | none => if rows = 0 then some .zeroRows else none

/-- The expansion `p` of an operation that touches the bus, if the fields every bus write reads hold values. -/
def State.onBus (s : State) (p : Program) : Option Program :=
  if s.i2cAddress.isSome && s.backlightFlag.isSome then some p else none

/-- Serve a request: refuse it for the reason `adm`, or run its expansion with `go`. A request whose expansion would
read a field without a value has none and is refused (R23); by the phase test this happens in no state a run
reaches. -/
def serve (adm : Option RefusalReason) (p : Option Program) (go : Program → State → State) (s : State) : Result :=
  match adm, p with
  | some r, _ => .next (refuse r s)
  | none, some p => .next (go p s)
  | none, none => .next (refuse .unconstructed s)

end Sys2Proof.Machine
end

