-- ==== Sys2Proof/Machine/SequencerCore.lean ====
section
/-! DEFINITION. The core operations `XWR`, `W4`, `SEND`, `CMD`, `DAT` (40_sequencer_core.md): their expansions
(30_encoding.md R77) and their meanings. -/

namespace Sys2Proof.Machine

/-! ## Expansions -/

/-- The nibble frame (R62, R93): data settles, enable rises and is held, enable falls and is held. -/
def w4Micros (c : Config) (v : Byte) : Program :=
  [ .xwr v,
    .xwr (v ||| c.enMask),
    .hold c.tEnHigh,
    .xwr (v &&& ~~~c.enMask),
    .hold c.tEnLow ]

/-- The byte frame (R63, R96): two nibble frames, the high nibble's first. -/
def sendMicros (c : Config) (v : Byte) (mode : Mode) : Program :=
  w4Micros c (highNibbleByte c v mode) ++ w4Micros c (lowNibbleByte c v mode)

/-- `call CMD(v)` (R98). -/
def cmdMicros (c : Config) (v : Byte) : Program :=
  sendMicros c v .command

/-- `call DAT(v)` (R99), its return value not used. -/
def datMicros (c : Config) (v : Byte) : Program :=
  sendMicros c v .data

/-- `DAT(v)` whose return value is counted (R99, 42_display_ops.md R146): the write is judged after its ten events
(R147 d). -/
def countedDatMicros (c : Config) (v : Byte) : Program :=
  datMicros c v ++ [.tally v]

def xwrProgram (_c : Config) (d : Byte) (s : State) : Option Program :=
  s.onBus [.xwr d]

def w4Program (c : Config) (v : Byte) (s : State) : Option Program :=
  s.onBus (w4Micros c v)

def sendProgram (c : Config) (v : Byte) (mode : Mode) (s : State) : Option Program :=
  s.onBus (sendMicros c v mode)

def cmdProgram (c : Config) (v : Byte) (s : State) : Option Program :=
  s.onBus (cmdMicros c v)

/-- A raw `DAT` request hands back the count of the bytes written (R99, 30_encoding.md R70). -/
def datProgram (c : Config) (v : Byte) (s : State) : Option Program :=
  s.onBus (.startCount :: countedDatMicros c v)

/-! ## Meanings -/

/-- `XWR d` (R90, R91). -/
def execXwr (d : Byte) (s : State) : Result :=
  serve (admission .begun s) (xwrProgram standard d s) (perform standard) s

/-- `W4 v` (R93, R94). -/
def execW4 (v : Byte) (s : State) : Result :=
  serve (admission .begun s) (w4Program standard v s) (perform standard) s

/-- `CMD v` (R98): `v` is not checked, and the flag registers are not updated. -/
def execCmd (v : Byte) (s : State) : Result :=
  serve (admission .begun s) (cmdProgram standard v s) (perform standard) s

/-- `DAT v` (R99). -/
def execDat (v : Byte) (s : State) : Result :=
  serve (admission .begun s) (datProgram standard v s) (perform standard) s

/-- `SEND v, mode` (R96). -/
def execSend (v : Byte) (mode : Mode) (s : State) : Result :=
  serve (admission .begun s) (sendProgram standard v mode s) (perform standard) s

end Sys2Proof.Machine
end

