-- ==== Sys2Proof/Machine/Controller.lean ====
section
/-! DEFINITION. The table's rows of formats HDCMD and XBYTE: the controller command bytes the block emits
(30_encoding.md R64, R65) and the expander byte (R60, R61). They are no requests of R71. At the block a command byte
is what `CMD` sends (40_sequencer_core.md R98) and an expander byte is what `XWR` transmits (R90); that is their
meaning here (notes/assumptions/7.md). What the controller or the expander then does is out of scope (00_scope.md R4).
As with any raw `CMD`, no flag register changes (R98, 70_reset_and_hazards.md R182) and no extra hold is added
(R175). -/

namespace Sys2Proof.Machine

/-! ## Expansions -/

def clearDisplayProgram (c : Config) (s : State) : Option Program :=
  s.onBus (cmdMicros c c.clearDisplay)

def returnHomeProgram (c : Config) (s : State) : Option Program :=
  s.onBus (cmdMicros c c.returnHome)

def entryModeSetProgram (c : Config) (i r : Bool) (s : State) : Option Program :=
  s.onBus (cmdMicros c (entryModeCommand c i r))

def displayControlProgram (c : Config) (d u b : Bool) (s : State) : Option Program :=
  s.onBus (cmdMicros c (displayControlCommand c d u b))

def cursorShiftProgram (c : Config) (m r : Bool) (s : State) : Option Program :=
  s.onBus (cmdMicros c (cursorShiftCommand c m r))

def functionSetProgram (c : Config) (w n f : Bool) (s : State) : Option Program :=
  s.onBus (cmdMicros c (functionSetCommand c w n f))

def setCgramAddrProgram (c : Config) (a : BitVec 6) (s : State) : Option Program :=
  s.onBus (cmdMicros c (c.setCgramAddr ||| a.setWidth 8))

def setDdramAddrProgram (c : Config) (a : BitVec 7) (s : State) : Option Program :=
  s.onBus (cmdMicros c (c.setDdramAddr ||| a.setWidth 8))

/-- The backlight flag is ORed in by `XWR`, so it can add bit `l` and never remove it (R91 b). -/
def xbyteProgram (c : Config) (data : Nibble) (l e w r : Bool) (s : State) : Option Program :=
  s.onBus [.xwr (expanderByte c data l e w r)]

/-! ## Meanings -/

/-- CLEARDISPLAY, `00000001` (R64). -/
def execClearDisplay (s : State) : Result :=
  serve (admission .begun s) (clearDisplayProgram standard s) (perform standard) s

/-- RETURNHOME, `00000010` (R64). -/
def execReturnHome (s : State) : Result :=
  serve (admission .begun s) (returnHomeProgram standard s) (perform standard) s

/-- ENTRYMODESET, `000001is` (R64). -/
def execEntryModeSet (i r : Bool) (s : State) : Result :=
  serve (admission .begun s) (entryModeSetProgram standard i r s) (perform standard) s

/-- DISPLAYCONTROL, `00001dcb` (R64). -/
def execDisplayControl (d u b : Bool) (s : State) : Result :=
  serve (admission .begun s) (displayControlProgram standard d u b s) (perform standard) s

/-- CURSORSHIFT, `0001mr00` (R64). -/
def execCursorShift (m r : Bool) (s : State) : Result :=
  serve (admission .begun s) (cursorShiftProgram standard m r s) (perform standard) s

/-- FUNCTIONSET, `001wnf00` (R64). -/
def execFunctionSet (w n f : Bool) (s : State) : Result :=
  serve (admission .begun s) (functionSetProgram standard w n f s) (perform standard) s

/-- SETCGRAMADDR, `01aaaaaa` (R64). -/
def execSetCgramAddr (a : BitVec 6) (s : State) : Result :=
  serve (admission .begun s) (setCgramAddrProgram standard a s) (perform standard) s

/-- SETDDRAMADDR, `1aaaaaaa` (R64). -/
def execSetDdramAddr (a : BitVec 7) (s : State) : Result :=
  serve (admission .begun s) (setDdramAddrProgram standard a s) (perform standard) s

/-- The expander byte `DDDDLEWS` (R60), transmitted as `XWR` transmits a byte (R90). -/
def execXbyte (data : Nibble) (l e w r : Bool) (s : State) : Result :=
  serve (admission .begun s) (xbyteProgram standard data l e w r s) (perform standard) s

end Sys2Proof.Machine
end

