-- ==== Sys2Proof/Machine/Display.lean ====
section
/-! DEFINITION. The display operations (42_display_ops.md): each a fixed expansion into `CMD`, `DAT` or `XWR` with at
most one update of a field before it. -/

namespace Sys2Proof.Machine

/-! ## Expansions -/

/-- `CLEAR` (R120). -/
def clearMicros (c : Config) : Program :=
  cmdMicros c c.clearDisplay ++ [.hold c.tSlow]

/-- `HOME` (R121). -/
def homeMicros (c : Config) : Program :=
  cmdMicros c c.returnHome ++ [.hold c.tSlow]

/-- `BACKLIGHT on` (R123): the flag, then a raw zero-data byte; no pulse, no hold. -/
def backlightMicros (on : Bool) : Program :=
  [.write (.backlightFlag on), .xwr 0x00]

/-- `TOGGLE(control_flags, M, DISPLAYCONTROL, on)` (R124) for the register's value `f`. -/
def controlToggleMicros (c : Config) (f m : Byte) (on : Bool) : Program :=
  .write (.controlFlags (toggled f m on)) :: cmdMicros c (c.displayControl ||| toggled f m on)

/-- `TOGGLE(entry_mode_flags, M, ENTRYMODESET, on)` (R124) for the register's value `f`. -/
def entryToggleMicros (c : Config) (f m : Byte) (on : Bool) : Program :=
  .write (.entryModeFlags (toggled f m on)) :: cmdMicros c (c.entryModeSet ||| toggled f m on)

/-- `CREATECHAR slot, b0, ..., b7` (R143): the address command, then the bitmap bytes, whole and in order. -/
def createCharMicros (c : Config) (slot : Byte) (bitmap : Bitmap) : Program :=
  cmdMicros c (glyphCommand c slot) ++ bitmap.toList.flatMap (datMicros c)

/-- `PRINT text` for a text that is not null (R146). -/
def printMicros (c : Config) (text : List Byte) : Program :=
  .startCount :: text.flatMap (countedDatMicros c)

/-- A toggle of `S.control_flags`. -/
def controlToggleProgram (c : Config) (m : Byte) (on : Bool) (s : State) : Option Program :=
  match s.controlFlags with
  | some f => s.onBus (controlToggleMicros c f m on)
  | none => none

/-- A toggle of `S.entry_mode_flags`. -/
def entryToggleProgram (c : Config) (m : Byte) (on : Bool) (s : State) : Option Program :=
  match s.entryModeFlags with
  | some f => s.onBus (entryToggleMicros c f m on)
  | none => none

def clearProgram (c : Config) (s : State) : Option Program :=
  s.onBus (clearMicros c)

def homeProgram (c : Config) (s : State) : Option Program :=
  s.onBus (homeMicros c)

def backlightProgram (_c : Config) (on : Bool) (s : State) : Option Program :=
  s.onBus (backlightMicros on)

def displayProgram (c : Config) (on : Bool) (s : State) : Option Program :=
  controlToggleProgram c c.displayOn on s

def cursorProgram (c : Config) (on : Bool) (s : State) : Option Program :=
  controlToggleProgram c c.cursorOn on s

def blinkProgram (c : Config) (on : Bool) (s : State) : Option Program :=
  controlToggleProgram c c.blinkOn on s

def textDirProgram (c : Config) (ltr : Bool) (s : State) : Option Program :=
  entryToggleProgram c c.entryLeft ltr s

def autoscrollProgram (c : Config) (on : Bool) (s : State) : Option Program :=
  entryToggleProgram c c.entryShiftIncrement on s

def scrollProgram (c : Config) (dir : Direction) (s : State) : Option Program :=
  s.onBus (cmdMicros c (scrollCommand c dir))

/-- `SETCURSOR col, row` (R141): the row is clamped before anything is sent (60_exceptions.md R154). -/
def setCursorProgram (c : Config) (col row : Byte) (s : State) : Option Program :=
  match s.rows with
  | some rows =>
    match s.rowOffsets.read (clampRow c rows row) with
    | some offset => s.onBus (cmdMicros c (ddramCommand c col offset))
    | none => none
  | none => none

def createCharProgram (c : Config) (slot : Byte) (bitmap : Bitmap) (s : State) : Option Program :=
  s.onBus (createCharMicros c slot bitmap)

def printProgram (c : Config) (text : List Byte) (s : State) : Option Program :=
  s.onBus (printMicros c text)

/-- `PRINT` of the null reference (R146): "return 0", no event. -/
def printNullProgram (_c : Config) (_s : State) : Option Program :=
  some [.startCount]

/-! ## Meanings -/

/-- `CLEAR` (R120). -/
def execClear (s : State) : Result :=
  serve (admission .begun s) (clearProgram standard s) (perform standard) s

/-- `HOME` (R121). -/
def execHome (s : State) : Result :=
  serve (admission .begun s) (homeProgram standard s) (perform standard) s

/-- `BACKLIGHT on` (R123). -/
def execBacklight (on : Bool) (s : State) : Result :=
  serve (admission .begun s) (backlightProgram standard on s) (perform standard) s

/-- `DISPLAY on` (R126). -/
def execDisplay (on : Bool) (s : State) : Result :=
  serve (admission .begun s) (displayProgram standard on s) (perform standard) s

/-- `CURSOR on` (R127). -/
def execCursor (on : Bool) (s : State) : Result :=
  serve (admission .begun s) (cursorProgram standard on s) (perform standard) s

/-- `BLINK on` (R128). -/
def execBlink (on : Bool) (s : State) : Result :=
  serve (admission .begun s) (blinkProgram standard on s) (perform standard) s

/-- `SCROLL dir` (R136). -/
def execScroll (dir : Direction) (s : State) : Result :=
  serve (admission .begun s) (scrollProgram standard dir s) (perform standard) s

/-- `TEXTDIR ltr` (R131). -/
def execTextDir (ltr : Bool) (s : State) : Result :=
  serve (admission .begun s) (textDirProgram standard ltr s) (perform standard) s

/-- `AUTOSCROLL on` (R132). -/
def execAutoscroll (on : Bool) (s : State) : Result :=
  serve (admission .begun s) (autoscrollProgram standard on s) (perform standard) s

/-- `CREATECHAR slot, b0, ..., b7` (R143, R144). -/
def execCreateChar (slot : Byte) (bitmap : Bitmap) (s : State) : Result :=
  serve (admission .begun s) (createCharProgram standard slot bitmap s) (perform standard) s

/-- `SETCURSOR col, row` (R141, R142). -/
def execSetCursor (col row : Byte) (s : State) : Result :=
  serve (admission .begun s) (setCursorProgram standard col row s) (perform standard) s

/-- `PRINT text` (R146, R147). -/
def execPrint (text : List Byte) (s : State) : Result :=
  serve (admission .begun s) (printProgram standard text s) (perform standard) s

/-- `PRINT` of the null reference (R146, R147 a; refused before `BEGIN`, 90 C10). -/
def execPrintNull (s : State) : Result :=
  serve (admission .begun s) (printNullProgram standard s) (perform standard) s

end Sys2Proof.Machine
end

