-- ==== Sys2Proof/Machine/Lifecycle.lean ====
section
/-! DEFINITION. The lifecycle operations `CONSTRUCT` and `BEGIN` (41_lifecycle.md). -/

namespace Sys2Proof.Machine

/-! ## Expansions -/

/-- `CONSTRUCT addr, cols, rows` (R110): five fields and the phase, no event. -/
def constructMicros (c : Config) (addr cols rows : Byte) : Program :=
  [ .write (.i2cAddress addr),
    .write (.columns cols),
    .write (.rows rows),
    .write (.charSizeFlag c.largeFont),
    .write (.backlightFlag true),
    .write (.phase .constructed) ]

/-- The twelve steps of `BEGIN` (R112), for the values of `S.rows`, `S.columns` and `S.char_size_flag`. The value of
`S.function_flags` that step 8 reads is the one step 2 has just written (10_state.md R24, "W then R"); so are steps 9
and 11. -/
def beginMicros (c : Config) (rows cols : Byte) (largeFont : Bool) : Program :=
  -- step 1: open the bus channel
  [ .openChannel,
    -- step 2: the function flags
    .write (.functionFlags (bringUpFunctionFlags c rows largeFont)),
    -- step 3: the row offsets
    .write (.rowOffset 0 c.rowBase0),
    .write (.rowOffset 1 c.rowBase1),
    .write (.rowOffset 2 (c.rowBase0 + cols)),
    .write (.rowOffset 3 (c.rowBase1 + cols)),
    -- step 4: power stabilization
    .hold c.tPower,
    -- step 5: a raw byte with all lines low but the backlight, and the settle hold
    .xwr 0x00,
    .hold c.tSettle ]
  -- step 6: the nibble 0x3 three times, each followed by its gap
  ++ w4Micros c (raisedNibble c.initNibble8Bit) ++ [.hold c.tInit1]
  ++ w4Micros c (raisedNibble c.initNibble8Bit) ++ [.hold c.tInit2]
  ++ w4Micros c (raisedNibble c.initNibble8Bit) ++ [.hold c.tInit3]
  -- step 7: the nibble 0x2
  ++ w4Micros c (raisedNibble c.initNibble4Bit)
  -- step 8: FUNCTIONSET
  ++ cmdMicros c (c.functionSet ||| bringUpFunctionFlags c rows largeFont)
  -- step 9: display on, cursor off, blink off
  ++ [.write (.controlFlags c.displayOn)] ++ cmdMicros c (c.displayControl ||| c.displayOn)
  -- step 10: CLEARDISPLAY
  ++ cmdMicros c c.clearDisplay ++ [.hold c.tSlow]
  -- step 11: left to right, no autoscroll
  ++ [.write (.entryModeFlags c.entryLeft)] ++ cmdMicros c (c.entryModeSet ||| c.entryLeft)
  -- step 12: RETURNHOME
  ++ cmdMicros c c.returnHome ++ [.hold c.tSlow]
  ++ [.write (.phase .begun)]

def constructProgram (c : Config) (addr cols rows : Byte) (_s : State) : Option Program :=
  some (constructMicros c addr cols rows)

def beginProgram (c : Config) (s : State) : Option Program :=
  match s.rows, s.columns, s.charSizeFlag with
  | some rows, some cols, some largeFont => s.onBus (beginMicros c rows cols largeFont)
  | _, _, _ => none

/-! ## Meanings -/

/-- `CONSTRUCT addr, cols, rows` (R110, R111). -/
def execConstruct (addr cols rows : Byte) (s : State) : Result :=
  serve (constructAdmission rows s) (constructProgram standard addr cols rows s) (perform standard) s

/-- `BEGIN` (R112 to R114). -/
def execBegin (s : State) : Result :=
  serve (admission .constructed s) (beginProgram standard s) (perform standard) s

end Sys2Proof.Machine
end

