-- ==== Sys2Proof/Machine/Dispatch.lean ====
section
/-! DEFINITION. The meaning of every instruction: one arm per row of spec/opcode_table.json. -/

namespace Sys2Proof.Machine

def exec (i : Instr) (s : State) : Host.Outcome State Fault Refusal :=
  match i with
  | .xwr d => Sys2Proof.Machine.execXwr d s
  | .w4 v => Sys2Proof.Machine.execW4 v s
  | .cmd v => Sys2Proof.Machine.execCmd v s
  | .dat v => Sys2Proof.Machine.execDat v s
  | .send v mode => Sys2Proof.Machine.execSend v mode s
  | .construct addr cols rows => Sys2Proof.Machine.execConstruct addr cols rows s
  | .begin => Sys2Proof.Machine.execBegin s
  | .clear => Sys2Proof.Machine.execClear s
  | .home => Sys2Proof.Machine.execHome s
  | .backlight on => Sys2Proof.Machine.execBacklight on s
  | .display on => Sys2Proof.Machine.execDisplay on s
  | .cursor on => Sys2Proof.Machine.execCursor on s
  | .blink on => Sys2Proof.Machine.execBlink on s
  | .scroll dir => Sys2Proof.Machine.execScroll dir s
  | .textDir ltr => Sys2Proof.Machine.execTextDir ltr s
  | .autoscroll on => Sys2Proof.Machine.execAutoscroll on s
  | .createChar slot bitmap => Sys2Proof.Machine.execCreateChar slot bitmap s
  | .setCursor col row => Sys2Proof.Machine.execSetCursor col row s
  | .print text => Sys2Proof.Machine.execPrint text s
  | .printNull => Sys2Proof.Machine.execPrintNull s
  -- controller command bytes
  | .clearDisplay => Sys2Proof.Machine.execClearDisplay s
  | .returnHome => Sys2Proof.Machine.execReturnHome s
  | .entryModeSet e r => Sys2Proof.Machine.execEntryModeSet e r s
  | .displayControl d u b => Sys2Proof.Machine.execDisplayControl d u b s
  | .cursorShift m r => Sys2Proof.Machine.execCursorShift m r s
  | .functionSet w n f => Sys2Proof.Machine.execFunctionSet w n f s
  | .setCgramAddr a => Sys2Proof.Machine.execSetCgramAddr a s
  | .setDdramAddr a => Sys2Proof.Machine.execSetDdramAddr a s
  -- the expander byte
  | .xbyte data l e w r => Sys2Proof.Machine.execXbyte data l e w r s

end Sys2Proof.Machine
end

