-- ==== Sys2Proof/WellFormed.lean ====
section
/-! DEFINITION. Well-formedness: of an instruction (it has a word) and of a configuration (R5's constraint on
masks). Both are decidable checks. -/

namespace Sys2Proof

/-- An instruction has a word when its operands fit its encoding. Every operand type admits exactly the encodable
values but for `PRINT`'s text, whose count is one byte: "a text longer than 255 bytes is several `PRINT` requests"
(30_encoding.md R72). -/
def Instr.wf : Instr → Bool
  | .print text => text.length ≤ 255
  | .xwr _ | .w4 _ | .cmd _ | .dat _ | .send _ _ | .construct _ _ _ | .begin | .clear | .home => true
  | .backlight _ | .display _ | .cursor _ | .blink _ | .scroll _ | .textDir _ | .autoscroll _ => true
  | .createChar _ _ | .setCursor _ _ | .printNull => true
  | .clearDisplay | .returnHome | .entryModeSet _ _ | .displayControl _ _ _ | .cursorShift _ _ => true
  | .functionSet _ _ _ | .setCgramAddr _ | .setDdramAddr _ | .xbyte _ _ _ _ _ => true

/-- A request of the request port (format REQ), and not one of the nine rows of the other two formats. -/
def Instr.isRequest : Instr → Bool
  | .xwr _ | .w4 _ | .cmd _ | .dat _ | .send _ _ | .construct _ _ _ | .begin | .clear | .home => true
  | .backlight _ | .display _ | .cursor _ | .blink _ | .scroll _ | .textDir _ | .autoscroll _ => true
  | .createChar _ _ | .setCursor _ _ | .print _ | .printNull => true
  | .clearDisplay | .returnHome | .entryModeSet _ _ | .displayControl _ _ _ | .cursorShift _ _ => false
  | .functionSet _ _ _ | .setCgramAddr _ | .setDdramAddr _ | .xbyte _ _ _ _ _ => false

/-- A single bit inside `0x0F`. -/
def lowSingleBit (m : Byte) : Bool :=
  m = 0x01 || m = 0x02 || m = 0x04 || m = 0x08

/-- R5: "`RS_MASK`, `RW_MASK`, `EN_MASK`, `BL_MASK` are pairwise different single bits inside `0x0F`, so none
overlaps `DATA_MASK`". DESIGN CHOICE (notes/assumptions/27.md): R5 makes `DATA_MASK` a parameter and says no more of
its other values; here only its default `0xF0` is well-formed. -/
def Cfg.masksWf {σ : Type} (c : Cfg σ) : Bool :=
  c.dataMask = 0xF0 && lowSingleBit c.rsMask && lowSingleBit c.rwMask && lowSingleBit c.enMask
    && lowSingleBit c.blMask && c.rsMask ≠ c.rwMask && c.rsMask ≠ c.enMask && c.rsMask ≠ c.blMask
    && c.rwMask ≠ c.enMask && c.rwMask ≠ c.blMask && c.enMask ≠ c.blMask

/-- R5 with the sizes that R20 ("The array has exactly four entries") and R45 ("8 user-programmable glyph slots")
fix. -/
def Cfg.wf {σ : Type} (c : Cfg σ) : Bool :=
  c.masksWf && c.nRowOffsets = 4 && c.nCgramSlots = 8

end Sys2Proof
end

