-- ==== Sys2Proof/Decode.lean ====
section
/-! DEFINITION. Decoding of what the host presents (30_encoding.md R64, R71, R72, R73, R75; R60 for the expander
byte), total on any bytes and rejecting by name, and the encoder written from the same tables. -/

namespace Sys2Proof

/-- Why a word has no instruction. The first four are the refusals F5 of a request (R73); the last is a command
byte that fits no row of R64. -/
inductive DecodeError where
  | noBytes
  | unassignedOpcode (op : Byte)
  | truncated (op : Byte)
  | refusedOperand (b : Byte)
  | noCommandPattern (b : Byte)
deriving DecidableEq, Repr

/-- A decoded instruction and the bytes behind it. -/
abbrev Decoded := Except DecodeError (Instr × List Byte)

/-! ## Operand bytes (R72) -/

/-- `mode`: `0x00` command, `0x01` data, anything else refused. -/
def decodeMode (b : Byte) : Except DecodeError Mode :=
  if b = 0x00 then .ok .command else if b = 0x01 then .ok .data else .error (.refusedOperand b)

/-- `on`, `ltr`: `0x00` false, `0x01` true, anything else refused. -/
def decodeBool (b : Byte) : Except DecodeError Bool :=
  if b = 0x00 then .ok false else if b = 0x01 then .ok true else .error (.refusedOperand b)

/-- `dir`: `0x00` left, `0x01` right, anything else refused. -/
def decodeDirection (b : Byte) : Except DecodeError Direction :=
  if b = 0x00 then .ok .left else if b = 0x01 then .ok .right else .error (.refusedOperand b)

/-- An operation without operands: the request is its opcode byte. -/
def noOperand (i : Instr) (rest : List Byte) : Decoded :=
  .ok (i, rest)

/-- One operand byte. -/
def oneOperand (op : Byte) (k : Byte → Except DecodeError Instr) : List Byte → Decoded
  | a :: rest => (k a).map (·, rest)
  | [] => .error (.truncated op)

/-- Two operand bytes. -/
def twoOperands (op : Byte) (k : Byte → Byte → Except DecodeError Instr) : List Byte → Decoded
  | a :: b :: rest => (k a b).map (·, rest)
  | _ => .error (.truncated op)

/-- Three operand bytes. -/
def threeOperands (op : Byte) (k : Byte → Byte → Byte → Except DecodeError Instr) : List Byte → Decoded
  | a :: b :: c :: rest => (k a b c).map (·, rest)
  | _ => .error (.truncated op)

/-- `CREATECHAR`'s operands: the slot and 8 bitmap bytes. -/
def glyphOperands (op : Byte) : List Byte → Decoded
  | s :: b0 :: b1 :: b2 :: b3 :: b4 :: b5 :: b6 :: b7 :: rest =>
    .ok (.createChar s ⟨b0, b1, b2, b3, b4, b5, b6, b7⟩, rest)
  | _ => .error (.truncated op)

/-- `PRINT`'s operands: the count `n` and `n` text bytes (R75). -/
def textOperand (op : Byte) : List Byte → Decoded
  | n :: rest =>
    if rest.length < n.toNat then .error (.truncated op)
    else .ok (.print (rest.take n.toNat), rest.drop n.toNat)
  | [] => .error (.truncated op)

/-! ## Requests (R71) -/

/-- R71's table, opcode by opcode; all other opcode bytes are unassigned (R73). -/
def decodeOperands (op : Byte) (rest : List Byte) : Decoded :=
  match op.toNat with
  | 0x00 => oneOperand op (fun d => .ok (.xwr d)) rest
  | 0x01 => oneOperand op (fun v => .ok (.w4 v)) rest
  | 0x02 => oneOperand op (fun v => .ok (.cmd v)) rest
  | 0x03 => oneOperand op (fun v => .ok (.dat v)) rest
  | 0x04 => twoOperands op (fun v m => (decodeMode m).map (.send v)) rest
  | 0x10 => threeOperands op (fun a c r => .ok (.construct a c r)) rest
  | 0x11 => noOperand .begin rest
  | 0x12 => noOperand .clear rest
  | 0x13 => noOperand .home rest
  | 0x14 => oneOperand op (fun b => (decodeBool b).map .backlight) rest
  | 0x15 => oneOperand op (fun b => (decodeBool b).map .display) rest
  | 0x16 => oneOperand op (fun b => (decodeBool b).map .cursor) rest
  | 0x17 => oneOperand op (fun b => (decodeBool b).map .blink) rest
  | 0x18 => oneOperand op (fun b => (decodeDirection b).map .scroll) rest
  | 0x19 => oneOperand op (fun b => (decodeBool b).map .textDir) rest
  | 0x1A => oneOperand op (fun b => (decodeBool b).map .autoscroll) rest
  | 0x1B => glyphOperands op rest
  | 0x1C => twoOperands op (fun c r => .ok (.setCursor c r)) rest
  | 0x1D => textOperand op rest
  | 0x1E => noOperand .printNull rest
  | _ => .error (.unassignedOpcode op)

/-- Decode the request at the head of a byte string (R75): the instruction and the bytes behind it. -/
def decodeRequest : List Byte → Decoded
  | [] => .error .noBytes
  | op :: rest => decodeOperands op rest

/-! ## Controller command bytes (R64) -/

/-- A row of R64's table: the fixed bits, their values, and the fields. -/
structure CommandRow where
  mask : Byte
  pattern : Byte
  build : Byte → Instr

/-- The byte fits the row. -/
def CommandRow.fits (r : CommandRow) (b : Byte) : Bool :=
  b &&& r.mask = r.pattern

/-- R64's table; its patterns are the defaults of R5. -/
def commandRows : List CommandRow :=
  [ ⟨0xFF, 0x01, fun _ => .clearDisplay⟩,
    ⟨0xFF, 0x02, fun _ => .returnHome⟩,
    ⟨0xFC, 0x04, fun b => .entryModeSet (b.getLsbD 1) (b.getLsbD 0)⟩,
    ⟨0xF8, 0x08, fun b => .displayControl (b.getLsbD 2) (b.getLsbD 1) (b.getLsbD 0)⟩,
    ⟨0xF3, 0x10, fun b => .cursorShift (b.getLsbD 3) (b.getLsbD 2)⟩,
    ⟨0xE3, 0x20, fun b => .functionSet (b.getLsbD 4) (b.getLsbD 3) (b.getLsbD 2)⟩,
    ⟨0xC0, 0x40, fun b => .setCgramAddr (b.setWidth 6)⟩,
    ⟨0x80, 0x80, fun b => .setDdramAddr (b.setWidth 7)⟩ ]

/-- The row of R64 a command byte fits, if any. DESIGN CHOICE (notes/assumptions/25.md): a byte presented as a command
that fits no row (0x00, 0x23) has no instruction, and `fetchBy` refuses it as F5; R153's list has no such case, and a raw
`CMD` sends any byte (R98). -/
def decodeCommand (b : Byte) : Except DecodeError Instr :=
  match commandRows.find? (·.fits b) with
  | some r => .ok (r.build b)
  | none => .error (.noCommandPattern b)

/-! ## The expander byte (R60) -/

/-- `DDDDLEWS`: every byte is one. -/
def decodeExpander (b : Byte) : Instr :=
  .xbyte (b.extractLsb' 4 4) (b.getLsbD 3) (b.getLsbD 2) (b.getLsbD 1) (b.getLsbD 0)

/-- Decode what the host presents. -/
def decode : Presented → Decoded
  | .request bytes => decodeRequest bytes
  | .command b => (decodeCommand b).map (·, [])
  | .expander b => .ok (decodeExpander b, [])

/-! ## The encoder -/

def encodeMode : Mode → Byte
  | .command => 0x00
  | .data => 0x01

def encodeBool : Bool → Byte
  | false => 0x00
  | true => 0x01

def encodeDirection : Direction → Byte
  | .left => 0x00
  | .right => 0x01

/-- The word of an instruction: R71 and R72 for a request, R64's pattern for a command byte, R60's for an expander
byte. -/
def encode : Instr → Presented
  | .xwr d => .request [0x00, d]
  | .w4 v => .request [0x01, v]
  | .cmd v => .request [0x02, v]
  | .dat v => .request [0x03, v]
  | .send v m => .request [0x04, v, encodeMode m]
  | .construct a c r => .request [0x10, a, c, r]
  | .begin => .request [0x11]
  | .clear => .request [0x12]
  | .home => .request [0x13]
  | .backlight on => .request [0x14, encodeBool on]
  | .display on => .request [0x15, encodeBool on]
  | .cursor on => .request [0x16, encodeBool on]
  | .blink on => .request [0x17, encodeBool on]
  | .scroll dir => .request [0x18, encodeDirection dir]
  | .textDir ltr => .request [0x19, encodeBool ltr]
  | .autoscroll on => .request [0x1A, encodeBool on]
  | .createChar slot m => .request (0x1B :: slot :: m.toList)
  | .setCursor col row => .request [0x1C, col, row]
  | .print text => .request (0x1D :: BitVec.ofNat 8 text.length :: text)
  | .printNull => .request [0x1E]
  | .clearDisplay => .command 0x01
  | .returnHome => .command 0x02
  | .entryModeSet i s => .command (0b000001#6 ++ BitVec.ofBool i ++ BitVec.ofBool s)
  | .displayControl d c b => .command (0b00001#5 ++ BitVec.ofBool d ++ BitVec.ofBool c ++ BitVec.ofBool b)
  | .cursorShift m r => .command (0b0001#4 ++ BitVec.ofBool m ++ BitVec.ofBool r ++ 0b00#2)
  | .functionSet w n f =>
    .command (0b001#3 ++ BitVec.ofBool w ++ BitVec.ofBool n ++ BitVec.ofBool f ++ 0b00#2)
  | .setCgramAddr a => .command (0b01#2 ++ a)
  | .setDdramAddr a => .command (0b1#1 ++ a)
  | .xbyte d l e w s =>
    .expander (d ++ BitVec.ofBool l ++ BitVec.ofBool e ++ BitVec.ofBool w ++ BitVec.ofBool s)

/-! ## Words as the opcode table numbers them -/

/-- The total length of a request, from its opcode byte and the byte after it (R71, R75); none for an unassigned
opcode. -/
def requestLength (op n : Byte) : Option Nat :=
  match op.toNat with
  | 0x00 | 0x01 | 0x02 | 0x03 => some 2
  | 0x04 => some 3
  | 0x10 => some 4
  | 0x11 | 0x12 | 0x13 => some 1
  | 0x14 | 0x15 | 0x16 | 0x17 | 0x18 | 0x19 | 0x1A => some 2
  | 0x1B => some 10
  | 0x1C => some 3
  | 0x1D => some (2 + n.toNat)
  | 0x1E => some 1
  | _ => none

/-- Byte `k` of a table word, the first byte first: bits `8k+7..8k` of `w`; every bit from `nbits` up is 0. -/
def wordByte (nbits w k : Nat) : Byte :=
  BitVec.ofNat 8 (w % 2 ^ nbits / 2 ^ (8 * k))

/-- What a table word presents (notes/assumptions/8.md). The table lists three encodings in one list and a bare word
does not say which it belongs to, so it is read as a request where R71 assigns its opcode byte, else as a command
byte where R64 has a row for it, else as an expander byte. -/
def presentWord (nbits w : Nat) : Presented :=
  match requestLength (wordByte nbits w 0) (wordByte nbits w 1) with
  | some n => .request ((List.range n).map (wordByte nbits w))
  | none =>
    if nbits ≤ 8 then
      match decodeCommand (wordByte nbits w 0) with
      | .ok _ => .command (wordByte nbits w 0)
      | .error _ => .expander (wordByte nbits w 0)
    else .request ((List.range (nbits / 8)).map (wordByte nbits w))

/-- The instruction the decoder reads from a word numbered as the opcode table numbers it. -/
def decodeTableWord (nbits w : Nat) : Option Instr :=
  match decode (presentWord nbits w) with
  | .ok (i, _) => some i
  | .error _ => none

end Sys2Proof
end

