-- ==== Sys2Proof/Machine/Fetch.lean ====
section
/-! DEFINITION. How a request reaches the block (30_encoding.md R70, R75; 20_memory.md R53: there is no fetch from
memory), and the event-by-event form of an operation in progress (10_state.md R25, R26). -/

namespace Sys2Proof.Machine

/-- What the next step has before it. -/
inductive Fetched where
  /-- Nothing is presented and nothing is in progress: the block waits. -/
  | idle
  /-- Nothing is presented while an operation is in progress: the operation goes on. -/
  | goOn
  /-- What is presented is refused; the state after it has been taken. -/
  | refuse (r : RefusalReason) (s : State)
  /-- An instruction, and the state after it has been taken. -/
  | run (i : Instr) (s : State)

/-- The bytes behind a complete request are the next request (R75: the lengths tell where one ends). -/
def presentRest (rest : List Byte) (later : List Presented) : List Presented :=
  match rest with
  | [] => later
  | b :: bs => .request (b :: bs) :: later

/-- Take what is presented: F6, then F5, come first (60_exceptions.md R154). A refused word is taken whole.
DESIGN CHOICES: every entry of the inbox counts as presented at the move that finds it first, so one that waits behind
an operation in progress is refused F6 (notes/assumptions/24.md); a command byte in abstract form that fits no row of
R64 is refused as F5 (notes/assumptions/25.md). -/
def fetchBy (dec : Presented → Decoded) (s : State) : Fetched :=
  match s.inbox with
  | [] => if s.busy then .goOn else .idle
  | p :: later =>
    if s.busy then .refuse .busy { s with inbox := later }
    else
      match dec p with
      | .ok (i, rest) => .run i { s with inbox := presentRest rest later }
      | .error _ => .refuse .badEncoding { s with inbox := later }

/-- The same at the default configuration. -/
def fetch (s : State) : Fetched :=
  fetchBy decode s

/-- One move of the operation in progress: its next step, or its completion when none is left. -/
def tick (c : Config) (s : State) : State :=
  match s.running with
  | [] => finish s
  | m :: rest =>
    if m.stops c s then { s with running := [] } else m.run c { s with running := rest }

/-- Accept an operation and run none of it yet. -/
def start (p : Program) (s : State) : State :=
  { accept s with running := p }

end Sys2Proof.Machine
end

