-- ==== Sys2Proof/Machine/Step.lean ====
section
/-! DEFINITION. One step at the default configuration: an accepted operation runs to completion in one step (92 D3).
`stepWith` takes the configuration as an argument, as 00_scope.md R5 asks (Machine/ConfiguredStep.lean); `step` is
`stepWith standard` (Laws/Step.lean). -/

namespace Sys2Proof.Machine

/-- The block serves what is presented. With nothing presented it waits, or goes on with an operation in progress.
DESIGN CHOICE (notes/assumptions/24.md): the inbox is a queue, since no operation is in progress between two steps. -/
def step (s : State) : Host.Outcome State Fault Refusal :=
  match fetch s with
  | .idle => .next s
  | .goOn => .next (tick standard s)
  | .refuse r s' => .next (refuse r s')
  | .run i s' => exec i s'

/-- `s` with the table word `w` presented next (notes/assumptions/6.md). -/
def State.withFetchWord (s : State) (nbits w : Nat) : State :=
  { s with inbox := presentWord nbits w :: s.inbox }

end Sys2Proof.Machine
end

