-- ==== Sys2Proof/Machine/Configured.lean ====
section
/-! DEFINITION. The operations for any configuration ("A model takes `Cfg` as an argument of its step function",
00_scope.md R5): what each instruction asks of the phase, and its expansion. `execWith standard` is `exec`
(Laws/Exec.lean). -/

namespace Sys2Proof.Machine

/-- The first refusal condition that holds of the decoded request (60_exceptions.md R153, R154). -/
def refusalOf (i : Instr) (s : State) : Option RefusalReason :=
  match i with
  | .construct _ _ rows => constructAdmission rows s
  | .begin => admission .constructed s
  | .xwr _ | .w4 _ | .cmd _ | .dat _ | .send _ _ => admission .begun s
  | .clear | .home | .backlight _ | .display _ | .cursor _ | .blink _ => admission .begun s
  | .scroll _ | .textDir _ | .autoscroll _ | .createChar _ _ | .setCursor _ _ => admission .begun s
  | .print _ | .printNull => admission .begun s
  | .clearDisplay | .returnHome | .entryModeSet _ _ | .displayControl _ _ _ => admission .begun s
  | .cursorShift _ _ | .functionSet _ _ _ | .setCgramAddr _ | .setDdramAddr _ => admission .begun s
  | .xbyte _ _ _ _ _ => admission .begun s

/-- The expansion of an instruction in a state (30_encoding.md R77). -/
def programOf (c : Config) (i : Instr) (s : State) : Option Program :=
  match i with
  | .xwr d => xwrProgram c d s
  | .w4 v => w4Program c v s
  | .cmd v => cmdProgram c v s
  | .dat v => datProgram c v s
  | .send v mode => sendProgram c v mode s
  | .construct addr cols rows => constructProgram c addr cols rows s
  | .begin => beginProgram c s
  | .clear => clearProgram c s
  | .home => homeProgram c s
  | .backlight on => backlightProgram c on s
  | .display on => displayProgram c on s
  | .cursor on => cursorProgram c on s
  | .blink on => blinkProgram c on s
  | .scroll dir => scrollProgram c dir s
  | .textDir ltr => textDirProgram c ltr s
  | .autoscroll on => autoscrollProgram c on s
  | .createChar slot bitmap => createCharProgram c slot bitmap s
  | .setCursor col row => setCursorProgram c col row s
  | .print text => printProgram c text s
  | .printNull => printNullProgram c s
  | .clearDisplay => clearDisplayProgram c s
  | .returnHome => returnHomeProgram c s
  | .entryModeSet i r => entryModeSetProgram c i r s
  | .displayControl d u b => displayControlProgram c d u b s
  | .cursorShift m r => cursorShiftProgram c m r s
  | .functionSet w n f => functionSetProgram c w n f s
  | .setCgramAddr a => setCgramAddrProgram c a s
  | .setDdramAddr a => setDdramAddrProgram c a s
  | .xbyte data l e w r => xbyteProgram c data l e w r s

/-- The meaning of an instruction under a configuration. -/
def execWith (c : Config) (i : Instr) (s : State) : Result :=
  serve (refusalOf i s) (programOf c i s) (perform c) s

end Sys2Proof.Machine
end

