-- ==== Sys2Proof/Machine/ConfiguredDecode.lean ====
section
/-! DEFINITION. Decoding of what the host presents under any configuration (00_scope.md R5). A request's encoding has
no parameter (30_encoding.md R71, R72). A command byte and an expander byte are read with the literals and masks of the
configuration: "a model written against the masks and not the positions stays right" (R60), and R64's patterns are "the
default of the corresponding `Cfg` field". At the defaults this is `decode` (Laws/ConfiguredDecode.lean). -/

namespace Sys2Proof.Machine

/-- All the bits of a mask are 1 in a byte. -/
def hasBits (m b : Byte) : Bool :=
  b &&& m = m

/-- The instruction of each row of R64 that a command byte can stand for, in the table's order. A field that is one
flag is read off its mask; a field that chooses between two parameters of R5 gives a candidate for each choice. -/
def commandCandidates (c : Config) (b : Byte) : List Instr :=
  [ .clearDisplay,
    .returnHome,
    .entryModeSet (hasBits c.entryLeft b) (hasBits c.entryShiftIncrement b),
    .displayControl (hasBits c.displayOn b) (hasBits c.cursorOn b) (hasBits c.blinkOn b),
    .cursorShift (hasBits c.displayMove b) true,
    .cursorShift (hasBits c.displayMove b) false,
    .functionSet true true true,
    .functionSet true true false,
    .functionSet true false true,
    .functionSet true false false,
    .functionSet false true true,
    .functionSet false true false,
    .functionSet false false true,
    .functionSet false false false,
    .setCgramAddr (b.setWidth 6),
    .setDdramAddr (b.setWidth 7) ]

/-- The first candidate whose command byte (R65) is this byte. DESIGN CHOICE (notes/assumptions/25.md): a byte that is
no candidate's has no instruction. -/
def decodeCommandWith (c : Config) (b : Byte) : Except DecodeError Instr :=
  match (commandCandidates c b).find? (fun i => controllerCommand c i = some b) with
  | some i => .ok i
  | none => .error (.noCommandPattern b)

/-- The expander byte's lines, read off the masks (R60). Under masks that R5 allows the byte is rebuilt whole
(notes/assumptions/27.md). -/
def decodeExpanderWith (c : Config) (b : Byte) : Instr :=
  .xbyte (b.extractLsb' 4 4) (hasBits c.blMask b) (hasBits c.enMask b) (hasBits c.rwMask b) (hasBits c.rsMask b)

/-- Decode what the host presents under a configuration. -/
def decodeWith (c : Config) : Presented → Decoded
  | .request bytes => decodeRequest bytes
  | .command b => (decodeCommandWith c b).map (·, [])
  | .expander b => .ok (decodeExpanderWith c b, [])

end Sys2Proof.Machine
end

