-- ==== Sys2Proof/Machine/ConfiguredStep.lean ====
section
/-! DEFINITION. The step function with its configuration as an argument: "A model takes `Cfg` as an argument of its
step function" (00_scope.md R5). The names `step` and `core` have a fixed type and stand for the default
(notes/assumptions/1.md). -/

namespace Sys2Proof.Machine

/-- Take what is presented, read under a configuration. -/
def fetchWith (c : Config) (s : State) : Fetched :=
  fetchBy (decodeWith c) s

/-- One step under a configuration: what is presented is served whole; with nothing presented the block waits, or goes
on with an operation in progress. -/
def stepWith (c : Config) (s : State) : Result :=
  match fetchWith c s with
  | .idle => .next s
  | .goOn => .next (tick c s)
  | .refuse r s' => .next (refuse r s')
  | .run i s' => execWith c i s'

/-- The machine under a configuration. Reset is the same for all: R35's reset column names no parameter. -/
def coreWith (c : Config) : Host.Core where
  State := State
  Fault := Fault
  Refusal := Refusal
  step := stepWith c
  reset := State.reset

end Sys2Proof.Machine
end

