-- ==== Sys2Proof/Machine/EventStep.lean ====
section
/-! DEFINITION. The same block event by event (10_state.md R25, R26; 92 D3: "`S.busy` and `S.upc` exist for a model
that steps event by event"). It differs from `step` only in that an accepted operation is started and not run. -/

namespace Sys2Proof.Machine

/-- One move of the block: serve what is presented by starting it, or go on with the operation in progress.
DESIGN CHOICE (notes/assumptions/24.md): what waits in the inbox while an operation runs is presented while busy and is
refused F6 here, where `step`, never busy between two of its steps, serves it next. The two agree, as 92 D3 says, on
requests that are presented when the block is idle. -/
def eventStep (c : Config) (s : State) : Result :=
  match fetchWith c s with
  | .idle => .next s
  | .goOn => .next (tick c s)
  | .refuse r s' => .next (refuse r s')
  | .run i s' => serve (refusalOf i s') (programOf c i s') start s'

/-- `n` moves, stopping at anything but a next state. -/
def eventSteps (c : Config) : Nat → State → Result
  | 0, s => .next s
  | n + 1, s =>
    match eventStep c s with
    | .next t => eventSteps c n t
    | .fault r => .fault r
    | .refused r => .refused r

end Sys2Proof.Machine
end

