-- ==== Sys2Proof/Machine/Observer.lean ====
section
/-! DEFINITION. What can be read off a trace: the byte each expander port holds (20_memory.md R42), what a downstream
controller would latch (R52, the spec's reading aid), and the sums of the holds (40_sequencer_core.md R100,
70_reset_and_hazards.md R180, R181). None of it is behaviour of the block, and none of it is stored. -/

namespace Sys2Proof.Machine

/-- The transactions of a trace, oldest first: address and byte. -/
def transactions : List Event → List (Byte × Byte)
  | [] => []
  | .txn a b :: rest => (a, b) :: transactions rest
  | .openChannel :: rest => transactions rest
  | .delay _ _ :: rest => transactions rest

/-- The bytes of the transactions. -/
def txnBytes (es : List Event) : List Byte :=
  (transactions es).map (·.2)

/-- The byte the port at a bus address holds: "every byte written to it replaces the previous one whole" (R42).
Absent where nothing has been written: the level before the first transaction is not known (93 U1). -/
def portAt (addr : Byte) (es : List Event) : Option Byte :=
  ((transactions es).filter (fun t => t.1 = addr)).getLast?.map (·.2)

/-! ## The reference observer (R52) -/

/-- A latched nibble with its register-select level, or one the source says nothing of. -/
inductive Latch where
  | nibble (n : Nibble) (rs : Bool)
  | unspecified
deriving DecidableEq, Repr

/-- The latches of one pair of consecutive bytes: counted at the falling edge of enable. -/
def latchOf (c : Config) (p b : Byte) : List Latch :=
  if p &&& c.enMask ≠ 0 ∧ b &&& c.enMask = 0 then
    if p.extractLsb' 4 4 = b.extractLsb' 4 4 ∧ p &&& c.rsMask = b &&& c.rsMask ∧ p &&& c.rwMask = 0 then
      [.nibble (p.extractLsb' 4 4) (p &&& c.rsMask ≠ 0)]
    else [.unspecified]
  else []

/-- The latches of a sequence of bytes after the byte `p`, if there is one. -/
def latchesFrom (c : Config) : Option Byte → List Byte → List Latch
  | _, [] => []
  | none, b :: rest => latchesFrom c (some b) rest
  | some p, b :: rest => latchOf c p b ++ latchesFrom c (some b) rest

/-- `Latches(trace)` of R52. -/
def latches (c : Config) (es : List Event) : List Latch :=
  latchesFrom c none (txnBytes es)

/-- "consecutive latches pair into bytes, first latch the high nibble" (R52): the byte and whether it is data.
DESIGN CHOICE (notes/assumptions/26.md), R52 being silent there: a pair whose latches differ in register select, or of
which one is unspecified, is no byte, and a last latch without a partner is left out. -/
def pairLatches : List Latch → List (Option (Byte × Bool))
  | .nibble h rh :: .nibble l rl :: rest => (if rh = rl then some (h ++ l, rh) else none) :: pairLatches rest
  | _ :: _ :: rest => none :: pairLatches rest
  | [_] => []
  | [] => []

/-! ## Holds -/

/-- The minimum of a hold, 0 for other events and where none is stated. -/
def Event.minNs : Event → Nat
  | .delay (some m) _ => m
  | .delay none _ => 0
  | .openChannel => 0
  | .txn _ _ => 0

/-- The "use" value of a hold. -/
def Event.useNs : Event → Nat
  | .delay _ u => u
  | .openChannel => 0
  | .txn _ _ => 0

/-- What a hold promises (R181): at least its minimum where one is stated, else at least its "use" value (92 D8). -/
def Event.promisedNs : Event → Nat
  | .delay (some m) _ => m
  | .delay none u => u
  | .openChannel => 0
  | .txn _ _ => 0

def Event.isTxn : Event → Bool
  | .txn _ _ => true
  | .openChannel => false
  | .delay _ _ => false

def Event.isHold : Event → Bool
  | .delay _ _ => true
  | .openChannel => false
  | .txn _ _ => false

/-- The sum of the stated minima (R100, R113). -/
def minHoldNs (es : List Event) : Nat :=
  (es.map Event.minNs).sum

/-- The sum of the "use" values (R100, R113). -/
def useHoldNs (es : List Event) : Nat :=
  (es.map Event.useNs).sum

/-- The least time the holds of these events take (R181). -/
def promisedHoldNs (es : List Event) : Nat :=
  (es.map Event.promisedNs).sum

end Sys2Proof.Machine
end

