-- ==== Sys2Proof/Safety.lean ====
section
/-! DEFINITION. The terms claims are stated in: when a state is ready for an operation, what a completed operation
leaves, the frames of 30_encoding.md R62, R63 and 41_lifecycle.md R113 written out from the spec's byte formats (not
from the machine's masks), what a good run is, and the machine's invariant. -/

namespace Sys2Proof.Machine

/-! ## States -/

/-- A block in phase Begun, idle, with these values in the two fields every bus write reads (10_state.md R24). -/
def State.Ready (s : State) (addr : Byte) (on : Bool) : Prop :=
  s.phase = .begun ∧ s.busy = false ∧ s.i2cAddress = some addr ∧ s.backlightFlag = some on

/-- `s` after an operation that emitted these events and answered this, and wrote no field: idle, `upc` 0, nothing in
progress. -/
def State.completed (s : State) (es : List Event) (r : Response) : State :=
  { s with
    busy := false, upc := 0, running := [], count := none,
    trace := s.trace ++ es, responses := s.responses ++ [r] }

/-- `t` has the DeviceState of `s` (10_state.md R11). -/
def SameDevice (s t : State) : Prop :=
  t.i2cAddress = s.i2cAddress ∧ t.columns = s.columns ∧ t.rows = s.rows ∧ t.charSizeFlag = s.charSizeFlag
    ∧ t.backlightFlag = s.backlightFlag ∧ t.functionFlags = s.functionFlags ∧ t.controlFlags = s.controlFlags
    ∧ t.entryModeFlags = s.entryModeFlags ∧ t.rowOffsets = s.rowOffsets

/-- Every byte of every expander port reads as before, but for the port at `addr`, if there is one: the memory frame
of an operation (20_memory.md R42). -/
def PortsSameBut (addr : Option Byte) (s t : State) : Prop :=
  ∀ a : Byte, addr ≠ some a → portAt a t.trace = portAt a s.trace

/-- A run in which every request had a meaning (60_exceptions.md R153: "a claim about a run takes `S.refused == 0`
as a premise"). -/
def State.Good (s : State) : Prop :=
  s.refused = false

/-- The run is over (70_reset_and_hazards.md R183): idle, and the host has nothing more to present. -/
def State.RunOver (s : State) : Prop :=
  s.busy = false ∧ s.inbox = []

/-! ## Frames, from the spec's formats -/

/-- The expander byte `DDDDLEWS` (R60). -/
def xbyteOf (n : Nibble) (bl en rw rs : Bool) : Byte :=
  n ++ BitVec.ofBool bl ++ BitVec.ofBool en ++ BitVec.ofBool rw ++ BitVec.ofBool rs

/-- `BLM(S)` at its default position, bit 3 (R60). -/
def blBit (on : Bool) : Byte :=
  if on then 0x08 else 0x00

/-- The five events of `W4 v` (R62, R93). -/
def nibbleFrame (addr v : Byte) (on : Bool) : List Event :=
  [ .txn addr (v ||| blBit on),
    .txn addr (v ||| 0x04 ||| blBit on),
    .delay (some 450) 1000,
    .txn addr ((v &&& 0xFB) ||| blBit on),
    .delay (some 37000) 50000 ]

/-- Half of a byte frame (R61): `{nibble, BL, EN, 0, RS}` with EN 0, 1, 0. -/
def halfFrame (addr : Byte) (n : Nibble) (rs on : Bool) : List Event :=
  [ .txn addr (xbyteOf n on false false rs),
    .txn addr (xbyteOf n on true false rs),
    .delay (some 450) 1000,
    .txn addr (xbyteOf n on false false rs),
    .delay (some 37000) 50000 ]

/-- The ten events of `SEND v, mode` (R63): the high nibble's frame, then the low nibble's. -/
def byteFrame (addr v : Byte) (rs on : Bool) : List Event :=
  halfFrame addr (v.extractLsb' 4 4) rs on ++ halfFrame addr (v.extractLsb' 0 4) rs on

/-- `Delay(T_SLOW)` (R180). -/
def slowHold : Event :=
  .delay (some 2000000) 2000000

/-- The function flags after `BEGIN` (10_state.md R35). -/
def functionFlagsAfterBegin (rows : Byte) (largeFont : Bool) : Byte :=
  if rows.toNat > 1 then 0x08 else if largeFont && rows = 1 then 0x04 else 0x00

/-- The 79 events of `BEGIN`, step by step (R113), for a FUNCTIONSET byte `fs`. -/
def beginEvents (addr fs : Byte) (on : Bool) : List Event :=
  [.openChannel, .delay (some 40000000) 50000000, .txn addr (blBit on), .delay none 1000000000]
  ++ halfFrame addr 0x3 false on ++ [.delay (some 4500000) 4500000]
  ++ halfFrame addr 0x3 false on ++ [.delay (some 4500000) 4500000]
  ++ halfFrame addr 0x3 false on ++ [.delay (some 150000) 150000]
  ++ halfFrame addr 0x2 false on
  ++ byteFrame addr fs false on
  ++ byteFrame addr 0x0C false on
  ++ byteFrame addr 0x01 false on ++ [slowHold]
  ++ byteFrame addr 0x06 false on
  ++ byteFrame addr 0x02 false on ++ [slowHold]

/-- The row `SETCURSOR` uses: "`r = min(row, 3, S.rows - 1)`" (42_display_ops.md R141). -/
def cursorRow (rows row : Byte) : Nat :=
  if row.toNat ≤ 3 ∧ row.toNat ≤ rows.toNat - 1 then row.toNat
  else if rows.toNat ≤ 4 then rows.toNat - 1 else 3

/-! ## Kinds of operations -/

/-- The operations of tiers 2 and 3 (00_scope.md R3) on the request port: every request but raw `XWR` and `W4`. -/
def composes : Instr → Bool
  | .xwr _ | .w4 _ => false
  | .cmd _ | .dat _ | .send _ _ | .construct _ _ _ | .begin | .clear | .home => true
  | .backlight _ | .display _ | .cursor _ | .blink _ | .scroll _ | .textDir _ | .autoscroll _ => true
  | .createChar _ _ | .setCursor _ _ | .print _ | .printNull => true
  | .clearDisplay | .returnHome | .entryModeSet _ _ | .displayControl _ _ _ | .cursorShift _ _ => true
  | .functionSet _ _ _ | .setCgramAddr _ | .setDdramAddr _ => true
  | .xbyte _ _ _ _ _ => false

/-- The operations that write no DeviceState field and not the phase (10_state.md R24: `XWR` and "all others"), the
nine table rows of formats HDCMD and XBYTE among them. -/
def writesTraceOnly : Instr → Bool
  | .xwr _ | .w4 _ | .cmd _ | .dat _ | .send _ _ | .clear | .home | .scroll _ => true
  | .createChar _ _ | .setCursor _ _ | .print _ | .printNull => true
  | .clearDisplay | .returnHome | .entryModeSet _ _ | .displayControl _ _ _ | .cursorShift _ _ => true
  | .functionSet _ _ _ | .setCgramAddr _ | .setDdramAddr _ | .xbyte _ _ _ _ _ => true
  | .construct _ _ _ | .begin | .backlight _ => false
  | .display _ | .cursor _ | .blink _ | .textDir _ | .autoscroll _ => false

/-- The command byte of a controller command row, from its pattern in R64. -/
def commandByte : Instr → Option Byte
  | .clearDisplay => some 0x01
  | .returnHome => some 0x02
  | .entryModeSet i s => some (0b000001#6 ++ BitVec.ofBool i ++ BitVec.ofBool s)
  | .displayControl d c b => some (0b00001#5 ++ BitVec.ofBool d ++ BitVec.ofBool c ++ BitVec.ofBool b)
  | .cursorShift m r => some (0b0001#4 ++ BitVec.ofBool m ++ BitVec.ofBool r ++ 0b00#2)
  | .functionSet w n f => some (0b001#3 ++ BitVec.ofBool w ++ BitVec.ofBool n ++ BitVec.ofBool f ++ 0b00#2)
  | .setCgramAddr a => some (0b01#2 ++ a)
  | .setDdramAddr a => some (0b1#1 ++ a)
  | .xwr _ | .w4 _ | .cmd _ | .dat _ | .send _ _ | .construct _ _ _ | .begin | .clear | .home => none
  | .backlight _ | .display _ | .cursor _ | .blink _ | .scroll _ | .textDir _ | .autoscroll _ => none
  | .createChar _ _ | .setCursor _ _ | .print _ | .printNull | .xbyte _ _ _ _ _ => none

/-- The `rows` operand of a `CONSTRUCT`; none for every other instruction. -/
def constructRows : Instr → Option Byte
  | .construct _ _ rows => some rows
  | .xwr _ | .w4 _ | .cmd _ | .dat _ | .send _ _ | .begin | .clear | .home => none
  | .backlight _ | .display _ | .cursor _ | .blink _ | .scroll _ | .textDir _ | .autoscroll _ => none
  | .createChar _ _ | .setCursor _ _ | .print _ | .printNull => none
  | .clearDisplay | .returnHome | .entryModeSet _ _ | .displayControl _ _ _ | .cursorShift _ _ => none
  | .functionSet _ _ _ | .setCgramAddr _ | .setDdramAddr _ | .xbyte _ _ _ _ _ => none

/-- The reason a decoded request is refused, read off 60_exceptions.md R153's table in R154's order (F6, F1, F2, F4,
F3). -/
def reasonByTable (i : Instr) (s : State) : Option RefusalReason :=
  if s.busy = true then some .busy
  else if s.phase = .unconstructed ∧ constructRows i = none then some .unconstructed
  else if s.phase = .constructed ∧ i ≠ .begin ∧ constructRows i = none then some .notBegun
  else if s.phase ≠ .unconstructed ∧ constructRows i ≠ none then some .alreadyConstructed
  else if constructRows i = some 0 then some .zeroRows
  else none

/-- The requests R73 refuses, read off R71's lengths and R72's operand types and not off the decoder: an unassigned
opcode, a request shorter than its length, or a `mode`, `on`, `ltr` or `dir` above `0x01`. -/
def badRequest : List Byte → Bool
  | [] => true
  | op :: rest =>
    match requestLength op (rest.headD 0) with
    | none => true
    | some n =>
      rest.length + 1 < n
        || (op = 0x04 && 1 < ((rest.drop 1).headD 0).toNat)
        || (0x14 ≤ op.toNat && op.toNat ≤ 0x1A && 1 < (rest.headD 0).toNat)

/-- "Precondition: `S.phase == Begun`; otherwise the request is refused" (42_display_ops.md, opening; R90): F1 or F2,
and nothing changes but the refusal's record (60_exceptions.md R153). -/
def RefusedBeforeBegun (i : Instr) : Prop :=
  ∀ s : State, s.busy = false → s.phase ≠ .begun →
    exec i s = .next { s with
      refused := true
      lastRefusal := some (if s.phase = .unconstructed then .unconstructed else .notBegun) }

/-- The request bytes that stand for an instruction (30_encoding.md R71, R72): they decode to it and nothing is
left. -/
def EncodedAs (i : Instr) (bytes : List Byte) : Prop :=
  decode (.request bytes) = .ok (i, [])

/-- Enable pulses as 70_reset_and_hazards.md R174 wants them: enable is 0 in every transaction but the second of a
nibble frame, whose three bytes differ only in enable, with the two holds in their places. -/
def wellPulsed : List Event → Bool
  | .txn a b :: .txn a' b' :: .delay (some 450) 1000 :: .txn a'' b'' :: .delay (some 37000) 50000 :: rest =>
    a' = a && a'' = a && b &&& 0x04 = 0 && b' = (b ||| 0x04) && b'' = b && wellPulsed rest
  | .txn _ b :: rest => b &&& 0x04 = 0 && wellPulsed rest
  | .openChannel :: rest => wellPulsed rest
  | .delay _ _ :: rest => wellPulsed rest
  | [] => true

/-! ## The invariant -/

/-- The five fields `CONSTRUCT` writes hold values, with at least one row (10_state.md R14, R35). -/
def State.Configured (s : State) : Prop :=
  (∃ a, s.i2cAddress = some a) ∧ (∃ c, s.columns = some c) ∧ (∃ r, s.rows = some r ∧ r ≠ 0)
    ∧ (∃ f, s.charSizeFlag = some f) ∧ (∃ b, s.backlightFlag = some b)

/-- The fields `CONSTRUCT` writes hold no value (R23). -/
def State.Unconfigured (s : State) : Prop :=
  s.i2cAddress = none ∧ s.columns = none ∧ s.rows = none ∧ s.charSizeFlag = none ∧ s.backlightFlag = none

/-- The fields only `BEGIN` writes first hold no value (R23). -/
def State.NotPopulated (s : State) : Prop :=
  s.functionFlags = none ∧ s.controlFlags = none ∧ s.entryModeFlags = none
    ∧ s.rowOffsets = ⟨none, none, none, none⟩

/-- The fields `BEGIN` writes hold the values R17 to R20 allow. -/
def State.Populated (s : State) : Prop :=
  (∃ r f, s.rows = some r ∧ s.charSizeFlag = some f ∧ s.functionFlags = some (functionFlagsAfterBegin r f))
    ∧ (∃ v, s.controlFlags = some v ∧ v &&& 0xF8 = 0)
    ∧ (∃ v, s.entryModeFlags = some v ∧ v &&& 0xFC = 0)
    ∧ (∃ c, s.columns = some c ∧ s.rowOffsets = ⟨some 0x00, some 0x40, some c, some (0x40 + c)⟩)

/-- What holds of the block between operations. -/
structure Inv (s : State) : Prop where
  /-- Idle: nothing is in progress (R25, R26). -/
  idle : s.busy = false ∧ s.upc = 0 ∧ s.running = [] ∧ s.count = none
  /-- Phase Unconstructed: no field holds a value and nothing has been sent (R35). -/
  unconstructed : s.phase = .unconstructed → s.Unconfigured ∧ s.NotPopulated ∧ s.trace = []
  /-- Phase Constructed: "No bus I/O performed yet" (R35). -/
  constructed : s.phase = .constructed → s.Configured ∧ s.NotPopulated ∧ s.trace = []
  /-- Phase Begun: every field holds a legal value, and the channel was opened first (R17 to R20, R55). -/
  begun : s.phase = .begun → s.Configured ∧ s.Populated ∧ s.trace.head? = some .openChannel
  /-- Every transaction went to the one device (20_memory.md R41). -/
  oneDevice : ∀ a b, Event.txn a b ∈ s.trace → s.i2cAddress = some a
  /-- The sticky bit stands exactly when a reason was recorded (R28, R154). -/
  refusedRecorded : s.refused = s.lastRefusal.isSome

end Sys2Proof.Machine
end

