-- ==== Sys2Proof/Certificates/Slice0/Obligations.lean ====
section
/-! DEFINITION. The statements for the provers. Each is about the machine at the default configuration of
00_scope.md R5 unless it names another; no statement is about a program. `s.completed es r` is `s` after an operation
that emitted `es` and answered `r`, idle again (Safety.lean). Where a statement's next state names `responses`, it
says the completion or count that 30_encoding.md R70 gives the response port, kept as a list
(notes/assumptions/11.md); where it names `lastRefusal`, the reason that 60_exceptions.md R154 has recorded
(notes/assumptions/12.md). -/

open Sys2Proof Sys2Proof.Machine

/-! ## Reset -/

/-- 70_reset_and_hazards.md R170: what power-on leaves. -/
def Obligations.ResetHoldsNoValue : Prop :=
  State.reset.Unconfigured ∧ State.reset.NotPopulated ∧ State.reset.phase = .unconstructed
    ∧ State.reset.busy = false ∧ State.reset.upc = 0 ∧ State.reset.trace = [] ∧ State.reset.refused = false

/-! ## Encodings -/

/-- Words written out from the tables of 30_encoding.md R60, R64, R71 and R72 decode to the instructions they stand
for. -/
def Obligations.WrittenOutWordsDecode : Prop :=
  decode (.request [0x04, 0x41, 0x01]) = .ok (.send 0x41 .data, [])
    ∧ decode (.request [0x10, 0x27, 0x10, 0x02]) = .ok (.construct 0x27 0x10 0x02, [])
    ∧ decode (.request [0x1C, 0x05, 0x07, 0x11]) = .ok (.setCursor 0x05 0x07, [0x11])
    ∧ decode (.request [0x1D, 0x02, 0x48, 0x69]) = .ok (.print [0x48, 0x69], [])
    ∧ decode (.request [0x18, 0x01]) = .ok (.scroll .right, [])
    ∧ decode (.command 0b00101000) = .ok (.functionSet false true false, [])
    ∧ decode (.expander 0b01001101) = .ok (.xbyte 0x4 true true false true, [])

/-- Every byte fits at most one row of 30_encoding.md R64's table. -/
def Obligations.CommandRowsDoNotOverlap : Prop :=
  ∀ b : Byte, (commandRows.filter (·.fits b)).length ≤ 1

/-- Decoding an encoded well-formed instruction gives it back, with every operand at every value its encoding
admits. -/
def Obligations.DecodeInvertsEncode : Prop :=
  ∀ i : Instr, i.wf = true → decode (encode i) = .ok (i, [])

/-- A request that decodes is the encoding of what it decodes to, followed by the bytes behind it: no two words mean
one instruction and no bit is ignored. -/
def Obligations.DecodedRequestIsItsEncoding : Prop :=
  ∀ (bytes : List Byte) (i : Instr) (rest : List Byte), decodeRequest bytes = .ok (i, rest) →
    ∃ word, encode i = .request word ∧ bytes = word ++ rest ∧ i.wf = true

/-- A command byte that decodes is the pattern of what it decodes to, and an expander byte always is. -/
def Obligations.DecodedByteIsItsEncoding : Prop :=
  (∀ (b : Byte) (i : Instr), decodeCommand b = .ok i → encode i = .command b)
    ∧ ∀ b : Byte, encode (decodeExpander b) = .expander b

/-! ## Steps -/

/-- A step runs the decoded instruction: it is `exec` of it in the state from which the request has been taken, with
the bytes behind it presented next. Holding the host's requests in the state is the model's choice
(notes/assumptions/5.md). -/
def Obligations.StepRunsTheDecodedInstruction : Prop :=
  ∀ (s : State) (p : Presented) (later : List Presented) (i : Instr) (rest : List Byte),
    s.busy = false → s.inbox = p :: later → decode p = .ok (i, rest) →
      step s = exec i { s with inbox := (if rest = [] then later else .request rest :: later) }

/-- The same of the step function that takes the configuration as an argument (00_scope.md R5): it runs, under the
configuration, what the configuration makes of the bytes presented. -/
def Obligations.StepWithRunsTheDecodedInstruction : Prop :=
  ∀ (c : Config) (s : State) (p : Presented) (later : List Presented) (i : Instr) (rest : List Byte),
    s.busy = false → s.inbox = p :: later → decodeWith c p = .ok (i, rest) →
      stepWith c s = execWith c i { s with inbox := (if rest = [] then later else .request rest :: later) }

/-- 30_encoding.md R73: an unassigned opcode byte, a refused operand value or a request shorter than its length is
refused, with no effect but the refusal's record; every other request decodes. That the refused entry is then gone
whole is the model's choice (notes/assumptions/5.md). -/
def Obligations.MalformedRequestsAreRefused : Prop :=
  (∀ (s : State) (bytes : List Byte) (later : List Presented),
    s.busy = false → s.inbox = .request bytes :: later → badRequest bytes = true →
      step s = .next { s with inbox := later, refused := true, lastRefusal := some .badEncoding })
    ∧ ∀ bytes : List Byte, badRequest bytes = false → ∃ i rest, decodeRequest bytes = .ok (i, rest)

/-- 60_exceptions.md R153 F6: a request presented while an operation is in progress is refused, and the operation is
not disturbed. That the refused request is then gone is the model's choice (notes/assumptions/5.md). -/
def Obligations.RequestsWhileBusyAreRefused : Prop :=
  ∀ (s : State) (p : Presented) (later : List Presented), s.busy = true → s.inbox = p :: later →
    step s = .next { s with inbox := later, refused := true, lastRefusal := some .busy }

/-- With nothing presented an idle block stays as it is, and a busy one goes on with its operation: the model's
choice (notes/assumptions/10.md). -/
def Obligations.NothingPresentedWaitsOrGoesOn : Prop :=
  ∀ s : State, s.inbox = [] →
    (s.busy = false → step s = .next s) ∧ (s.busy = true → step s = .next (tick standard s))

/-! ## Refusal -/

/-- 60_exceptions.md R153, R154: a decoded request for which one of F6, F1, F2, F4, F3 holds, tested in that order, is
refused for the first that holds; nothing changes but the refusal's record. -/
def Obligations.ExecRefusesForTheFirstReason : Prop :=
  ∀ (i : Instr) (s : State) (r : RefusalReason), reasonByTable i s = some r →
    exec i s = .next { s with refused := true, lastRefusal := some r }

/-- In a state of the invariant a request is refused only for a reason of 60_exceptions.md R153: otherwise it
completes, the sticky bit is as it was, and one response is given. -/
def Obligations.ExecCompletesWithoutAReason : Prop :=
  ∀ (i : Instr) (s : State), Inv s → reasonByTable i s = none →
    ∃ t r, exec i s = .next t ∧ t.refused = s.refused ∧ t.lastRefusal = s.lastRefusal
      ∧ t.responses = s.responses ++ [r] ∧ t.busy = false

/-- Every instruction in every state ends in a next state: no fault, no refusal of the model's
(60_exceptions.md R150, R156). -/
def Obligations.ExecAlwaysAnswersNext : Prop :=
  ∀ (i : Instr) (s : State), ∃ t, exec i s = .next t

/-! ## The core operations -/

/-- 40_sequencer_core.md R90: one transaction, to the device, of the operand ORed with the backlight. -/
def Obligations.XwrTransmitsOneByte : Prop :=
  (∀ (d : Byte) (s : State) (addr : Byte) (on : Bool), s.Ready addr on →
    exec (.xwr d) s = .next (s.completed [.txn addr (d ||| blBit on)] .done))
    ∧ ∀ d, RefusedBeforeBegun (.xwr d) ∧ EncodedAs (.xwr d) [0x00, d]

/-- 40_sequencer_core.md R93: the five events of the nibble frame, for every operand, with its own enable, read/write
and backlight bits if it has them (R94). -/
def Obligations.W4EmitsTheNibbleFrame : Prop :=
  (∀ (v : Byte) (s : State) (addr : Byte) (on : Bool), s.Ready addr on →
    exec (.w4 v) s = .next (s.completed
      [ .txn addr (v ||| blBit on),
        .txn addr (v ||| 0x04 ||| blBit on),
        .delay (some 450) 1000,
        .txn addr ((v &&& ~~~0x04) ||| blBit on),
        .delay (some 37000) 50000 ] .done))
    ∧ ∀ v, RefusedBeforeBegun (.w4 v) ∧ EncodedAs (.w4 v) [0x01, v]

/-- 40_sequencer_core.md R96, 30_encoding.md R63: two nibble frames, the high nibble's first, each byte
`{nibble, BL, EN, 0, RS}` with the mode in RS. -/
def Obligations.SendEmitsTheByteFrame : Prop :=
  (∀ (v : Byte) (mode : Mode) (s : State) (addr : Byte) (on : Bool), s.Ready addr on →
    exec (.send v mode) s = .next (s.completed (byteFrame addr v (mode = .data) on) .done))
    ∧ (∀ v mode, RefusedBeforeBegun (.send v mode))
    ∧ ∀ v, EncodedAs (.send v .command) [0x04, v, 0x00] ∧ EncodedAs (.send v .data) [0x04, v, 0x01]

/-- 40_sequencer_core.md R98: `CMD` sends every byte as a command, and updates no flag register. -/
def Obligations.CmdSendsEveryByteAsACommand : Prop :=
  (∀ (v : Byte) (s : State) (addr : Byte) (on : Bool), s.Ready addr on →
    exec (.cmd v) s = .next (s.completed (byteFrame addr v false on) .done))
    ∧ ∀ v, RefusedBeforeBegun (.cmd v) ∧ EncodedAs (.cmd v) [0x02, v]

/-- 40_sequencer_core.md R99: `DAT` sends a data byte and returns 1; under a `WRITE_FAILS` that holds for it, it sends
it all the same and returns 0. -/
def Obligations.DatSendsADataByteAndCounts : Prop :=
  (∀ (v : Byte) (s : State) (addr : Byte) (on : Bool), s.Ready addr on →
    exec (.dat v) s = .next (s.completed (byteFrame addr v true on) (.count 1)))
    ∧ (∀ (fails : State → Byte → Bool) (v : Byte) (s : State) (addr : Byte) (on : Bool), s.Ready addr on →
      ((∀ t, fails t v = true) →
        execWith (Config.withWriteFails standard fails) (.dat v) s
          = .next (s.completed (byteFrame addr v true on) (.count 0)))
      ∧ ((∀ t, fails t v = false) →
        execWith (Config.withWriteFails standard fails) (.dat v) s
          = .next (s.completed (byteFrame addr v true on) (.count 1))))
    ∧ ∀ v, RefusedBeforeBegun (.dat v) ∧ EncodedAs (.dat v) [0x03, v]

/-- 40_sequencer_core.md R97: the two nibbles of a byte frame recombine to the byte; six transactions, four holds and
exactly the two latches `(v[7:4], mode)`, `(v[3:0], mode)` when the enable line was low; enable, read/write and
backlight bits of the operands 0; the two operands equal for equal nibbles; the holds' sums. -/
def Obligations.SendRecombinesAndLatchesTwice : Prop :=
  (∀ (v : Byte) (mode : Mode),
    let hi := highNibbleByte standard v mode
    let lo := lowNibbleByte standard v mode
    (hi &&& 0xF0) ||| ((lo &&& 0xF0) >>> 4) = v ∧ hi &&& 0x0E = 0 ∧ lo &&& 0x0E = 0
      ∧ (v.extractLsb' 4 4 = v.extractLsb' 0 4 → hi = lo))
    ∧ ∀ (v : Byte) (mode : Mode) (s : State) (addr : Byte) (on : Bool), s.Ready addr on →
      ∃ t es, exec (.send v mode) s = .next t ∧ t.trace = s.trace ++ es
        ∧ es.countP Event.isTxn = 6 ∧ es.countP Event.isHold = 4 ∧ es.length = 10
        ∧ minHoldNs es = 74900 ∧ useHoldNs es = 102000
        ∧ ((∀ b, (txnBytes s.trace).getLast? = some b → b &&& 0x04 = 0) →
          latches standard t.trace = latches standard s.trace
            ++ [.nibble (v.extractLsb' 4 4) (mode = .data), .nibble (v.extractLsb' 0 4) (mode = .data)])

/-- R97's recombination for every choice of the four control masks that 00_scope.md R5 allows: no mask overlaps the
data lines. That `DATA_MASK` keeps its default in a well-formed choice is the model's choice
(notes/assumptions/27.md). -/
def Obligations.NibblesRecombineForEveryMask : Prop :=
  ∀ (c : Config) (v : Byte) (mode : Mode), c.masksWf = true →
    (highNibbleByte c v mode &&& c.dataMask) ||| ((lowNibbleByte c v mode &&& c.dataMask) >>> 4) = v
      ∧ (highNibbleByte c v mode ||| lowNibbleByte c v mode) &&& (c.enMask ||| c.rwMask ||| c.blMask) = 0

/-- 20_memory.md R52, last sentence: a nibble frame whose operand has enable and read/write clear, started with the
enable line low, latches exactly its nibble with its register-select bit. -/
def Obligations.W4LatchesItsNibble : Prop :=
  ∀ (v : Byte) (s : State) (addr : Byte) (on : Bool), s.Ready addr on → v &&& 0x06 = 0 →
    (∀ b, (txnBytes s.trace).getLast? = some b → b &&& 0x04 = 0) →
      ∃ t, exec (.w4 v) s = .next t
        ∧ latches standard t.trace
          = latches standard s.trace ++ [.nibble (v.extractLsb' 4 4) (v.getLsbD 0)]

/-! ## The lifecycle -/

/-- 41_lifecycle.md R110: `CONSTRUCT` writes five fields and the phase, emits nothing, and copies `LARGE_FONT` into the
font flag (0 by default); with another phase or no rows it is refused (R111 a, b). Columns and address are not
checked (R111 c, d). -/
def Obligations.ConstructWritesItsFields : Prop :=
  (∀ (addr cols rows : Byte) (s : State), s.phase = .unconstructed → s.busy = false → rows ≠ 0 →
    exec (.construct addr cols rows) s = .next { s.completed [] .done with
      i2cAddress := some addr, columns := some cols, rows := some rows
      charSizeFlag := some false, backlightFlag := some true, phase := .constructed })
    ∧ (∀ (font : Bool) (addr cols rows : Byte) (s : State), s.phase = .unconstructed → s.busy = false → rows ≠ 0 →
      execWith (Config.withLargeFont standard font) (.construct addr cols rows) s
        = .next { s.completed [] .done with
          i2cAddress := some addr, columns := some cols, rows := some rows
          charSizeFlag := some font, backlightFlag := some true, phase := .constructed })
    ∧ (∀ (addr cols rows : Byte) (s : State), s.phase ≠ .unconstructed → s.busy = false →
      exec (.construct addr cols rows) s
        = .next { s with refused := true, lastRefusal := some .alreadyConstructed })
    ∧ (∀ (addr cols : Byte) (s : State), s.phase = .unconstructed → s.busy = false →
      exec (.construct addr cols 0) s = .next { s with refused := true, lastRefusal := some .zeroRows })
    ∧ ∀ addr cols rows, EncodedAs (.construct addr cols rows) [0x10, addr, cols, rows]

/-- 41_lifecycle.md R112: `BEGIN` runs its twelve steps in order, in phase Constructed and again in phase Begun, for
every geometry, font and backlight; in phase Unconstructed it is refused. -/
def Obligations.BeginRunsItsTwelveSteps : Prop :=
  (∀ (s : State) (addr cols rows : Byte) (font on : Bool), s.phase ≠ .unconstructed → s.busy = false →
    s.i2cAddress = some addr → s.columns = some cols → s.rows = some rows → s.charSizeFlag = some font →
    s.backlightFlag = some on →
      exec .begin s
        = .next { s.completed (beginEvents addr (0x20 ||| functionFlagsAfterBegin rows font) on) .done with
          functionFlags := some (functionFlagsAfterBegin rows font)
          rowOffsets := ⟨some 0x00, some 0x40, some cols, some (0x40 + cols)⟩
          controlFlags := some 0x04
          entryModeFlags := some 0x02
          phase := .begun })
    ∧ (∀ s : State, s.phase = .unconstructed → s.busy = false →
      exec .begin s = .next { s with refused := true, lastRefusal := some .unconstructed })
    ∧ EncodedAs .begin [0x11]

/-- 41_lifecycle.md R113: the table's events byte by byte, for `rows > 1` and the backlight on; with the backlight off
every byte has bit 3 clear; with one row step 8 is `CMD 0x20`, or `CMD 0x24` with the large font. Then the numbers of
events (R112) and the two sums of the holds. -/
def Obligations.BeginSendsTheTableOfBytes : Prop :=
  ∀ (s : State) (addr cols rows : Byte) (font on : Bool), s.phase ≠ .unconstructed → s.busy = false →
    s.i2cAddress = some addr → s.columns = some cols → s.rows = some rows → rows ≠ 0 →
    s.charSizeFlag = some font → s.backlightFlag = some on →
      let x := fun b : Byte => Event.txn addr (if on then b else b &&& 0xF7)
      let f := fun a b : Byte => [x a, x b, .delay (some 450) 1000, x a, .delay (some 37000) 50000]
      let es :=
        [.openChannel, .delay (some 40000000) 50000000, x 0x08, .delay none 1000000000]
        ++ f 0x38 0x3C ++ [.delay (some 4500000) 4500000]
        ++ f 0x38 0x3C ++ [.delay (some 4500000) 4500000]
        ++ f 0x38 0x3C ++ [.delay (some 150000) 150000]
        ++ f 0x28 0x2C
        ++ f 0x28 0x2C
        ++ (if 1 < rows.toNat then f 0x88 0x8C else if font then f 0x48 0x4C else f 0x08 0x0C)
        ++ f 0x08 0x0C ++ f 0xC8 0xCC
        ++ f 0x08 0x0C ++ f 0x18 0x1C ++ [.delay (some 2000000) 2000000]
        ++ f 0x08 0x0C ++ f 0x68 0x6C
        ++ f 0x08 0x0C ++ f 0x28 0x2C ++ [.delay (some 2000000) 2000000]
      (∃ t, exec .begin s = .next t ∧ t.trace = s.trace ++ es)
        ∧ es.length = 79 ∧ es.countP Event.isTxn = 43 ∧ es.countP Event.isHold = 35
        ∧ useHoldNs es = 1063864000 ∧ minHoldNs es = 53674300

/-- What the holds of `BEGIN` promise (70_reset_and_hazards.md R176, R177, R181): the channel is opened, at least 40 ms
pass, the raw byte goes out, and 1000 ms are held; the least time of all holds together. -/
def Obligations.BeginHoldsItsLeastTimes : Prop :=
  ∀ (s : State) (addr cols rows : Byte) (font on : Bool), s.phase ≠ .unconstructed → s.busy = false →
    s.i2cAddress = some addr → s.columns = some cols → s.rows = some rows → s.charSizeFlag = some font →
    s.backlightFlag = some on →
      ∃ t es, exec .begin s = .next t ∧ t.trace = s.trace ++ es
        ∧ es.take 4 = [.openChannel, .delay (some 40000000) 50000000, .txn addr (blBit on), .delay none 1000000000]
        ∧ promisedHoldNs es = 1053674300

/-- What the controller latches from a first `BEGIN` (20_memory.md R48, R52; 95_test_vectors.md P1): the single nibbles
3, 3, 3, 2, then the command bytes, all with register select 0. -/
def Obligations.BeginLatchesTheBringUp : Prop :=
  ∀ (s : State) (addr cols rows : Byte) (font on : Bool), s.phase = .constructed → s.busy = false → s.trace = [] →
    s.i2cAddress = some addr → s.columns = some cols → s.rows = some rows → s.charSizeFlag = some font →
    s.backlightFlag = some on →
      ∃ t, exec .begin s = .next t
        ∧ (latches standard t.trace).take 4
          = [.nibble 0x3 false, .nibble 0x3 false, .nibble 0x3 false, .nibble 0x2 false]
        ∧ pairLatches ((latches standard t.trace).drop 4)
          = [some (0x20 ||| functionFlagsAfterBegin rows font, false), some (0x0C, false), some (0x01, false),
            some (0x06, false), some (0x02, false)]

/-! ## The display operations -/

/-- 42_display_ops.md R120, R121: the command's byte frame, then the slow hold. -/
def Obligations.ClearAndHomeSendAndHold : Prop :=
  (∀ (s : State) (addr : Byte) (on : Bool), s.Ready addr on →
    exec .clear s = .next (s.completed (byteFrame addr 0x01 false on ++ [.delay (some 2000000) 2000000]) .done)
      ∧ exec .home s
        = .next (s.completed (byteFrame addr 0x02 false on ++ [.delay (some 2000000) 2000000]) .done))
    ∧ RefusedBeforeBegun .clear ∧ RefusedBeforeBegun .home ∧ EncodedAs .clear [0x12] ∧ EncodedAs .home [0x13]

/-- 42_display_ops.md R123: the flag is set and one raw byte carries it out, whether or not it changed; what follows
runs with the new flag. -/
def Obligations.BacklightSetsTheFlagAndPushesIt : Prop :=
  (∀ (on : Bool) (s : State) (addr : Byte) (old : Bool), s.Ready addr old →
    ∃ t, exec (.backlight on) s = .next t
      ∧ t = { s.completed [.txn addr (blBit on)] .done with backlightFlag := some on } ∧ t.Ready addr on)
    ∧ (∀ on, RefusedBeforeBegun (.backlight on))
    ∧ EncodedAs (.backlight false) [0x14, 0x00] ∧ EncodedAs (.backlight true) [0x14, 0x01]

/-- 42_display_ops.md R126 to R128: each changes its bit of `control_flags`, keeps the others, and re-issues
DISPLAYCONTROL with the new value. -/
def Obligations.ControlTogglesReissueDisplayControl : Prop :=
  (∀ (on : Bool) (s : State) (addr f : Byte) (bl : Bool), s.Ready addr bl → s.controlFlags = some f →
    (let g := if on then f ||| 0x04 else f &&& 0xFB
     exec (.display on) s
      = .next { s.completed (byteFrame addr (0x08 ||| g) false bl) .done with controlFlags := some g })
    ∧ (let g := if on then f ||| 0x02 else f &&& 0xFD
       exec (.cursor on) s
        = .next { s.completed (byteFrame addr (0x08 ||| g) false bl) .done with controlFlags := some g })
    ∧ (let g := if on then f ||| 0x01 else f &&& 0xFE
       exec (.blink on) s
        = .next { s.completed (byteFrame addr (0x08 ||| g) false bl) .done with controlFlags := some g }))
    ∧ (∀ on, RefusedBeforeBegun (.display on) ∧ RefusedBeforeBegun (.cursor on) ∧ RefusedBeforeBegun (.blink on))
    ∧ ∀ on, EncodedAs (.display on) [0x15, if on then 0x01 else 0x00]
      ∧ EncodedAs (.cursor on) [0x16, if on then 0x01 else 0x00]
      ∧ EncodedAs (.blink on) [0x17, if on then 0x01 else 0x00]

/-- 42_display_ops.md R131, R132: the same for `entry_mode_flags` and ENTRYMODESET; `BEGIN` leaves the direction left
to right and autoscroll off. -/
def Obligations.EntryTogglesReissueEntryModeSet : Prop :=
  (∀ (on : Bool) (s : State) (addr f : Byte) (bl : Bool), s.Ready addr bl → s.entryModeFlags = some f →
    (let g := if on then f ||| 0x02 else f &&& 0xFD
     exec (.textDir on) s
      = .next { s.completed (byteFrame addr (0x04 ||| g) false bl) .done with entryModeFlags := some g })
    ∧ (let g := if on then f ||| 0x01 else f &&& 0xFE
       exec (.autoscroll on) s
        = .next { s.completed (byteFrame addr (0x04 ||| g) false bl) .done with entryModeFlags := some g }))
    ∧ (∀ on, RefusedBeforeBegun (.textDir on) ∧ RefusedBeforeBegun (.autoscroll on))
    ∧ (∀ on, EncodedAs (.textDir on) [0x19, if on then 0x01 else 0x00]
      ∧ EncodedAs (.autoscroll on) [0x1A, if on then 0x01 else 0x00])
    ∧ ∀ (s t : State) (f : Byte), Inv s → s.phase ≠ .unconstructed → exec .begin s = .next t →
      t.entryModeFlags = some f → f &&& 0x02 = 0x02 ∧ f &&& 0x01 = 0x00

/-- 42_display_ops.md R136: `SCROLL` sends CURSORSHIFT with DISPLAYMOVE and the direction. -/
def Obligations.ScrollSendsCursorShift : Prop :=
  (∀ (dir : Direction) (s : State) (addr : Byte) (on : Bool), s.Ready addr on →
    exec (.scroll dir) s
      = .next (s.completed (byteFrame addr (if dir = .right then 0x1C else 0x18) false on) .done))
    ∧ (∀ dir, RefusedBeforeBegun (.scroll dir))
    ∧ EncodedAs (.scroll .left) [0x18, 0x00] ∧ EncodedAs (.scroll .right) [0x18, 0x01]

/-- 42_display_ops.md R141: the row is clamped to `min(row, 3, rows - 1)`, the column is not checked, the sum is modulo
256 and is ORed into SETDDRAMADDR whole. -/
def Obligations.SetCursorSendsTheClampedAddress : Prop :=
  (∀ (col row rows offset : Byte) (s : State) (addr : Byte) (on : Bool), s.Ready addr on → s.rows = some rows →
    rows ≠ 0 → s.rowOffsets.read (min row.toNat (min 3 (rows.toNat - 1))) = some offset →
      exec (.setCursor col row) s
        = .next (s.completed
          (byteFrame addr (0x80 ||| BitVec.ofNat 8 ((col.toNat + offset.toNat) % 256)) false on) .done))
    ∧ ∀ col row, RefusedBeforeBegun (.setCursor col row) ∧ EncodedAs (.setCursor col row) [0x1C, col, row]

/-- 42_display_ops.md R142 a, d: a row at or past the configured rows acts as the last one, and a row of 4 or more as
row 3. -/
def Obligations.SetCursorClampsRows : Prop :=
  ∀ (col row rows : Byte) (s : State), s.rows = some rows → rows ≠ 0 →
    (rows.toNat ≤ row.toNat → exec (.setCursor col row) s = exec (.setCursor col (rows - 1)) s)
      ∧ (4 ≤ row.toNat → exec (.setCursor col row) s = exec (.setCursor col 3) s)

/-- Between operations a Begun block's `SETCURSOR` always finds its row's offset (10_state.md R20, R44): line 0 starts
at 0x00, line 1 at 0x40, lines 2 and 3 the columns after them. -/
def Obligations.SetCursorAddressesTheLines : Prop :=
  ∀ (col row : Byte) (s : State), Inv s → s.phase = .begun →
    ∃ addr on cols rows, s.i2cAddress = some addr ∧ s.backlightFlag = some on ∧ s.columns = some cols
      ∧ s.rows = some rows
      ∧ exec (.setCursor col row) s
        = .next (s.completed (byteFrame addr (0x80 ||| (col +
          (match cursorRow rows row with
           | 0 => 0x00
           | 1 => 0x40
           | 2 => cols
           | _ => 0x40 + cols))) false on) .done)

/-- 42_display_ops.md R143: the address command for the masked slot, then the eight bitmap bytes as data, whole and in
order; what the `DAT`s return is ignored, so a failing write changes nothing. -/
def Obligations.CreateCharSendsAddressAndBitmap : Prop :=
  (∀ (slot : Byte) (m : Bitmap) (s : State) (addr : Byte) (on : Bool) (fails : State → Byte → Bool),
    s.Ready addr on →
    let t := s.completed
      (byteFrame addr (0x40 ||| ((slot &&& 0x07) <<< 3)) false on
        ++ byteFrame addr m.b0 true on ++ byteFrame addr m.b1 true on ++ byteFrame addr m.b2 true on
        ++ byteFrame addr m.b3 true on ++ byteFrame addr m.b4 true on ++ byteFrame addr m.b5 true on
        ++ byteFrame addr m.b6 true on ++ byteFrame addr m.b7 true on) .done
    exec (.createChar slot m) s = .next t
      ∧ execWith (Config.withWriteFails standard fails) (.createChar slot m) s = .next t)
    ∧ ∀ slot m, RefusedBeforeBegun (.createChar slot m)
      ∧ EncodedAs (.createChar slot m) [0x1B, slot, m.b0, m.b1, m.b2, m.b3, m.b4, m.b5, m.b6, m.b7]

/-- 42_display_ops.md R144 a: the slot is masked to three bits, so slot 9 is slot 1. -/
def Obligations.CreateCharSlotsAlias : Prop :=
  ∀ (slot : Byte) (m : Bitmap) (s : State),
    exec (.createChar slot m) s = exec (.createChar (BitVec.ofNat 8 (slot.toNat % 8)) m) s

/-- 42_display_ops.md R146: every byte of a text of any length is sent as data in order and the count is the length;
the null reference sends nothing and returns 0; where a write fails, `PRINT` stops after the failing byte has been
sent and returns the count before it (R147 d). -/
def Obligations.PrintSendsTheTextAndCounts : Prop :=
  (∀ (text : List Byte) (s : State) (addr : Byte) (on : Bool), s.Ready addr on →
    exec (.print text) s
      = .next (s.completed (text.flatMap (fun b => byteFrame addr b true on)) (.count text.length)))
    ∧ (∀ s : State, s.phase = .begun → s.busy = false → exec .printNull s = .next (s.completed [] (.count 0)))
    ∧ (∀ (fails : Byte → Bool) (good : List Byte) (bad : Byte) (more : List Byte) (s : State) (addr : Byte)
        (on : Bool), s.Ready addr on → (∀ b ∈ good, fails b = false) → fails bad = true →
      execWith (Config.withWriteFails standard (fun _ b => fails b)) (.print (good ++ bad :: more)) s
        = .next (s.completed ((good ++ [bad]).flatMap (fun b => byteFrame addr b true on))
          (.count good.length)))
    ∧ (∀ text, RefusedBeforeBegun (.print text)) ∧ RefusedBeforeBegun .printNull
    ∧ (∀ text : List Byte, text.length ≤ 255 →
      EncodedAs (.print text) (0x1D :: BitVec.ofNat 8 text.length :: text)) ∧ EncodedAs .printNull [0x1E]

/-! ## The controller command bytes and the expander byte -/

/-- A controller command row sends its byte of 30_encoding.md R64 as a command byte frame and writes nothing else. That
this is the row's meaning is the model's choice (notes/assumptions/7.md). -/
def Obligations.ControllerCommandsSendTheirPattern : Prop :=
  (∀ (i : Instr) (b : Byte) (s : State) (addr : Byte) (on : Bool), commandByte i = some b → s.Ready addr on →
    exec i s = .next (s.completed (byteFrame addr b false on) .done))
    ∧ ∀ i b, commandByte i = some b → RefusedBeforeBegun i

/-- The expander byte row transmits its byte, with the backlight ORed in (30_encoding.md R60, 40_sequencer_core.md R90,
R91 b). That this is the row's meaning is the model's choice (notes/assumptions/7.md). -/
def Obligations.ExpanderByteIsTransmitted : Prop :=
  (∀ (d : Nibble) (l e w r : Bool) (s : State) (addr : Byte) (on : Bool), s.Ready addr on →
    exec (.xbyte d l e w r) s = .next (s.completed [.txn addr (xbyteOf d (l || on) e w r)] .done))
    ∧ ∀ d l e w r, RefusedBeforeBegun (.xbyte d l e w r)

/-- A byte presented as a controller command or as an expander byte does what the raw request of that byte does, with
the literals and masks of any configuration (00_scope.md R5; R60: "a model written against the masks and not the
positions stays right"). A byte that is the command byte (R64, R65) of some instruction decodes, and what it decodes to
acts as `CMD` of it (40_sequencer_core.md R98); under masks that R5 allows, every expander byte acts as `XWR` of it
(R90). That these rows act at the block as the raw requests do is the model's choice (notes/assumptions/7.md). -/
def Obligations.PresentedBytesMeanTheirRawRequest : Prop :=
  (∀ (c : Config) (b : Byte) (i : Instr) (s : State), decodeWith c (.command b) = .ok (i, []) →
      execWith c i s = execWith c (.cmd b) s)
    ∧ (∀ (c : Config) (b : Byte) (i : Instr), controllerCommand c i = some b →
        ∃ j, decodeWith c (.command b) = .ok (j, []))
    ∧ ∀ (c : Config) (b : Byte) (s : State), c.masksWf = true →
        ∃ i, decodeWith c (.expander b) = .ok (i, []) ∧ execWith c i s = execWith c (.xwr b) s

/-- 70_reset_and_hazards.md R182: a raw `CMD`, whatever its byte, changes none of the three flag registers, so the next
toggle, any of the five, re-issues the block's own copy with its one bit changed. -/
def Obligations.ToggleAfterRawCommandReissuesTheCopy : Prop :=
  ∀ (v : Byte) (s : State) (addr : Byte) (bl : Bool), s.Ready addr bl →
    ∃ t, exec (.cmd v) s = .next t ∧ t.functionFlags = s.functionFlags ∧ t.controlFlags = s.controlFlags
      ∧ t.entryModeFlags = s.entryModeFlags
      ∧ (∀ (i : Instr) (m f : Byte) (on : Bool), s.controlFlags = some f →
        (i = .display on ∧ m = 0x04) ∨ (i = .cursor on ∧ m = 0x02) ∨ (i = .blink on ∧ m = 0x01) →
          let g := if on then f ||| m else f &&& ~~~m
          ∃ u, exec i t = .next u ∧ u.controlFlags = some g
            ∧ u.trace = s.trace ++ byteFrame addr v false bl ++ byteFrame addr (0x08 ||| g) false bl)
      ∧ ∀ (i : Instr) (m f : Byte) (on : Bool), s.entryModeFlags = some f →
        (i = .textDir on ∧ m = 0x02) ∨ (i = .autoscroll on ∧ m = 0x01) →
          let g := if on then f ||| m else f &&& ~~~m
          ∃ u, exec i t = .next u ∧ u.entryModeFlags = some g
            ∧ u.trace = s.trace ++ byteFrame addr v false bl ++ byteFrame addr (0x04 ||| g) false bl

/-! ## Frames -/

/-- The operations that write only the trace (10_state.md R24): no DeviceState field, not the phase, and no port but
the device's; nothing is taken from or put into the inbox, and events are only appended. R24 lists the requests among
them; that the nine rows of formats HDCMD and XBYTE write nothing else either is the model's choice
(notes/assumptions/7.md). -/
def Obligations.TraceOnlyOperationsKeepTheRest : Prop :=
  ∀ (i : Instr) (s t : State), writesTraceOnly i = true → exec i s = .next t →
    SameDevice s t ∧ t.phase = s.phase ∧ t.inbox = s.inbox ∧ PortsSameBut s.i2cAddress s t
      ∧ s.trace <+: t.trace

/-- `CONSTRUCT` and `PRINTNULL` store nothing: every port reads as before. `PRINTNULL` writes no field. `CONSTRUCT`
writes none of the fields that `BEGIN` first writes. -/
def Obligations.SilentOperationsStoreNothing : Prop :=
  (∀ (s t : State), exec .printNull s = .next t →
    t.trace = s.trace ∧ SameDevice s t ∧ t.phase = s.phase ∧ t.inbox = s.inbox ∧ PortsSameBut none s t)
    ∧ ∀ (a c r : Byte) (s t : State), exec (.construct a c r) s = .next t →
      t.trace = s.trace ∧ PortsSameBut none s t ∧ t.functionFlags = s.functionFlags
        ∧ t.controlFlags = s.controlFlags ∧ t.entryModeFlags = s.entryModeFlags
        ∧ t.rowOffsets = s.rowOffsets ∧ t.inbox = s.inbox

/-- A toggle changes one bit of one flag register and no other field (42_display_ops.md R124, R126 to R128, R131,
R132); memory as the operations that write only the trace. -/
def Obligations.TogglesChangeOneBit : Prop :=
  ∀ (on : Bool) (s t : State),
    (∀ (i : Instr) (m : Byte), (i = .display on ∧ m = 0x04) ∨ (i = .cursor on ∧ m = 0x02)
        ∨ (i = .blink on ∧ m = 0x01) → exec i s = .next t →
      SameDevice s { t with controlFlags := s.controlFlags }
        ∧ (∀ f g, s.controlFlags = some f → t.controlFlags = some g → g &&& ~~~m = f &&& ~~~m)
        ∧ t.phase = s.phase ∧ t.inbox = s.inbox ∧ PortsSameBut s.i2cAddress s t ∧ s.trace <+: t.trace)
    ∧ ∀ (i : Instr) (m : Byte), (i = .textDir on ∧ m = 0x02) ∨ (i = .autoscroll on ∧ m = 0x01) →
      exec i s = .next t →
        SameDevice s { t with entryModeFlags := s.entryModeFlags }
          ∧ (∀ f g, s.entryModeFlags = some f → t.entryModeFlags = some g → g &&& ~~~m = f &&& ~~~m)
          ∧ t.phase = s.phase ∧ t.inbox = s.inbox ∧ PortsSameBut s.i2cAddress s t ∧ s.trace <+: t.trace

/-- `BACKLIGHT` writes its flag and no other field; `BEGIN` writes the three flag registers, the row offsets and the
phase and no other field (10_state.md R24). -/
def Obligations.BacklightAndBeginKeepTheRest : Prop :=
  (∀ (on : Bool) (s t : State), exec (.backlight on) s = .next t →
    SameDevice s { t with backlightFlag := s.backlightFlag } ∧ t.phase = s.phase ∧ t.inbox = s.inbox
      ∧ PortsSameBut s.i2cAddress s t ∧ s.trace <+: t.trace)
    ∧ ∀ s t : State, exec .begin s = .next t →
      t.i2cAddress = s.i2cAddress ∧ t.columns = s.columns ∧ t.rows = s.rows ∧ t.charSizeFlag = s.charSizeFlag
        ∧ t.backlightFlag = s.backlightFlag ∧ t.inbox = s.inbox ∧ PortsSameBut s.i2cAddress s t
        ∧ s.trace <+: t.trace

/-! ## Rules about the whole machine -/

/-- Which instruction writes which field (10_state.md R12 to R20, R22, R24): a field differs after an instruction only
if the instruction is one of its writers. -/
def Obligations.OnlyTheirWritersChangeFields : Prop :=
  ∀ (i : Instr) (s t : State), exec i s = .next t →
    ((t.i2cAddress ≠ s.i2cAddress ∨ t.columns ≠ s.columns ∨ t.rows ≠ s.rows ∨ t.charSizeFlag ≠ s.charSizeFlag) →
      ∃ a c r, i = .construct a c r)
    ∧ (t.backlightFlag ≠ s.backlightFlag → (∃ a c r, i = .construct a c r) ∨ ∃ on, i = .backlight on)
    ∧ ((t.functionFlags ≠ s.functionFlags ∨ t.rowOffsets ≠ s.rowOffsets) → i = .begin)
    ∧ (t.controlFlags ≠ s.controlFlags →
      i = .begin ∨ ∃ on, i = .display on ∨ i = .cursor on ∨ i = .blink on)
    ∧ (t.entryModeFlags ≠ s.entryModeFlags → i = .begin ∨ ∃ on, i = .textDir on ∨ i = .autoscroll on)
    ∧ (t.phase ≠ s.phase → i = .begin ∨ ∃ a c r, i = .construct a c r)

/-- Once constructed, the address and the geometry never change (10_state.md R12 to R15: "Written once, by
`CONSTRUCT`"). -/
def Obligations.GeometryIsWrittenOnce : Prop :=
  ∀ (i : Instr) (s t : State), s.phase ≠ .unconstructed → exec i s = .next t →
    t.i2cAddress = s.i2cAddress ∧ t.columns = s.columns ∧ t.rows = s.rows ∧ t.charSizeFlag = s.charSizeFlag

/-- 10_state.md R22, R27, R28, over every step from every idle state: events are only appended, the sticky bit is never
cleared, and the phase is never lowered. -/
def Obligations.StepsOnlyAppendAndNeverLower : Prop :=
  ∀ s t : State, s.busy = false → step s = .next t →
    s.trace <+: t.trace ∧ (s.refused = true → t.refused = true)
      ∧ (s.phase ≠ .unconstructed → t.phase ≠ .unconstructed) ∧ (s.phase = .begun → t.phase = .begun)

/-- Every transaction goes to the device the block was constructed with (20_memory.md R41, R43). -/
def Obligations.TransactionsGoToTheDevice : Prop :=
  ∀ (i : Instr) (s t : State) (es : List Event) (a b : Byte), exec i s = .next t → t.trace = s.trace ++ es →
    .txn a b ∈ es → s.i2cAddress = some a

/-- 20_memory.md R46, 30_encoding.md R74: no operation of tiers 2 and 3 raises the read/write line. -/
def Obligations.ComposedBytesNeverRead : Prop :=
  ∀ (i : Instr) (s t : State) (es : List Event) (a b : Byte), composes i = true → exec i s = .next t →
    t.trace = s.trace ++ es → .txn a b ∈ es → b &&& 0x02 = 0

/-- 10_state.md R16, 42_display_ops.md R123: every byte of an operation of tiers 2 and 3 carries the backlight flag as
the operation leaves it, in bit 3. -/
def Obligations.ComposedBytesCarryTheBacklight : Prop :=
  ∀ (i : Instr) (s t : State) (es : List Event) (a b : Byte), composes i = true → exec i s = .next t →
    t.trace = s.trace ++ es → .txn a b ∈ es → t.backlightFlag = some (b.getLsbD 3)

/-- 70_reset_and_hazards.md R174: every operation of tiers 2 and 3, and every `W4` whose operand has the enable bit
clear, pulses enable with the data settled before, held while it is high for its time, and held after. -/
def Obligations.EnablePulsesAreWhole : Prop :=
  ∀ (i : Instr) (s t : State) (es : List Event),
    (composes i = true ∨ ∃ v : Byte, i = .w4 v ∧ v &&& 0x04 = 0) → exec i s = .next t →
    t.trace = s.trace ++ es → wellPulsed es = true

/-- 40_sequencer_core.md R100 and 70_reset_and_hazards.md R180: how many events, transactions and holds each operation
that emits any does emit, and the sums of their minima and "use" values. The toggles, `SETCURSOR` and `BEGIN` ask for
the fields they read (10_state.md R24). -/
def Obligations.OperationsEmitTheirCounts : Prop :=
  ∀ (s : State) (addr : Byte) (on : Bool), s.Ready addr on →
    ∀ (i : Instr) (events txns holds minNs useNs : Nat),
      (i = .begin ∧ (∃ cols rows font, s.columns = some cols ∧ s.rows = some rows ∧ s.charSizeFlag = some font)
        ∧ (events, txns, holds, minNs, useNs) = (79, 43, 35, 53674300, 1063864000))
      ∨ ((∃ d, i = .xwr d) ∧ (events, txns, holds, minNs, useNs) = (1, 1, 0, 0, 0))
      ∨ ((∃ v, i = .w4 v) ∧ (events, txns, holds, minNs, useNs) = (5, 3, 2, 37450, 51000))
      ∨ (((∃ v m, i = .send v m) ∨ (∃ v, i = .cmd v) ∨ (∃ v, i = .dat v) ∨ ∃ d, i = .scroll d)
        ∧ (events, txns, holds, minNs, useNs) = (10, 6, 4, 74900, 102000))
      ∨ ((∃ b f, (i = .display b ∨ i = .cursor b ∨ i = .blink b) ∧ s.controlFlags = some f)
        ∧ (events, txns, holds, minNs, useNs) = (10, 6, 4, 74900, 102000))
      ∨ ((∃ b f, (i = .textDir b ∨ i = .autoscroll b) ∧ s.entryModeFlags = some f)
        ∧ (events, txns, holds, minNs, useNs) = (10, 6, 4, 74900, 102000))
      ∨ ((∃ col row rows offset, i = .setCursor col row ∧ s.rows = some rows ∧ rows ≠ 0
          ∧ s.rowOffsets.read (min row.toNat (min 3 (rows.toNat - 1))) = some offset)
        ∧ (events, txns, holds, minNs, useNs) = (10, 6, 4, 74900, 102000))
      ∨ ((i = .clear ∨ i = .home) ∧ (events, txns, holds, minNs, useNs) = (11, 6, 5, 2074900, 2102000))
      ∨ ((∃ k m, i = .createChar k m) ∧ (events, txns, holds, minNs, useNs) = (90, 54, 36, 674100, 918000))
      ∨ ((∃ b, i = .backlight b) ∧ (events, txns, holds, minNs, useNs) = (1, 1, 0, 0, 0))
      ∨ (∃ text, i = .print text ∧ (events, txns, holds, minNs, useNs)
          = (10 * text.length, 6 * text.length, 4 * text.length, 74900 * text.length, 102000 * text.length)) →
        ∃ t es, exec i s = .next t ∧ t.trace = s.trace ++ es ∧ es.length = events
          ∧ es.countP Event.isTxn = txns ∧ es.countP Event.isHold = holds
          ∧ minHoldNs es = minNs ∧ useHoldNs es = useNs

/-- 60_exceptions.md R152: no operation depends on what the transport does with a failure. -/
def Obligations.BusOutcomeChangesNothing : Prop :=
  ∀ (c : Config) (o : BusOutcome) (i : Instr) (s : State),
    execWith (Config.withBusOutcome c o) i s = execWith c i s

/-! ## Event by event -/

/-- 10_state.md R26: one move of an operation in progress emits at most one event; `upc` counts it, and returns to 0
together with `busy` when nothing is left. That the steps that emit nothing, and completion, are moves of their own is
the model's choice (notes/assumptions/9.md). -/
def Obligations.SequencerPositionCountsEvents : Prop :=
  ∀ (c : Config) (s : State), s.busy = true →
    let t := tick c s
    (t.busy = true ∧ t.trace = s.trace ∧ t.upc = s.upc)
      ∨ (t.busy = true ∧ (∃ e, t.trace = s.trace ++ [e]) ∧ t.upc = s.upc + 1)
      ∨ (s.running = [] ∧ t.busy = false ∧ t.trace = s.trace ∧ t.upc = 0)

/-- The two granularities agree (92 D3: "Both give the same traces"): whatever an operation run whole leaves, the block
stepping event by event reaches, under every configuration. -/
def Obligations.EventStepsReachTheWholeOperation : Prop :=
  ∀ (c : Config) (s t : State) (p : Presented) (i : Instr), s.busy = false → s.inbox = [p] →
    decodeWith c p = .ok (i, []) → execWith c i { s with inbox := [] } = .next t →
      ∃ n, eventSteps c n s = .next t

/-! ## The invariant -/

/-- The state after reset meets the invariant. -/
def Obligations.ResetMeetsTheInvariant : Prop :=
  Inv State.reset

/-- Every step from a state that meets the invariant gives one that meets it: which fields hold values in which phase,
the values the flag registers and the row offsets can hold, one device, the channel opened before anything else,
nothing in progress between operations (10_state.md R12 to R28, R35; 20_memory.md R41, R55). -/
def Obligations.StepsKeepTheInvariant : Prop :=
  ∀ s t : State, Inv s → step s = .next t → Inv t
end

