-- ==== Sys2Proof/Laws/State.lean ====
section
/-! SUPPORT. One lemma per field per update of State, true by rfl, so that no proof unfolds a record update. -/

namespace Sys2Proof.Machine

variable (s : State)

/-! ## emit -/

@[simp] theorem emit_i2cAddress (e : Event) : (emit e s).i2cAddress = s.i2cAddress := rfl
@[simp] theorem emit_columns (e : Event) : (emit e s).columns = s.columns := rfl
@[simp] theorem emit_rows (e : Event) : (emit e s).rows = s.rows := rfl
@[simp] theorem emit_charSizeFlag (e : Event) : (emit e s).charSizeFlag = s.charSizeFlag := rfl
@[simp] theorem emit_backlightFlag (e : Event) : (emit e s).backlightFlag = s.backlightFlag := rfl
@[simp] theorem emit_functionFlags (e : Event) : (emit e s).functionFlags = s.functionFlags := rfl
@[simp] theorem emit_controlFlags (e : Event) : (emit e s).controlFlags = s.controlFlags := rfl
@[simp] theorem emit_entryModeFlags (e : Event) : (emit e s).entryModeFlags = s.entryModeFlags := rfl
@[simp] theorem emit_rowOffsets (e : Event) : (emit e s).rowOffsets = s.rowOffsets := rfl
@[simp] theorem emit_phase (e : Event) : (emit e s).phase = s.phase := rfl
@[simp] theorem emit_busy (e : Event) : (emit e s).busy = s.busy := rfl
@[simp] theorem emit_upc (e : Event) : (emit e s).upc = s.upc + 1 := rfl
@[simp] theorem emit_trace (e : Event) : (emit e s).trace = s.trace ++ [e] := rfl
@[simp] theorem emit_refused (e : Event) : (emit e s).refused = s.refused := rfl
@[simp] theorem emit_running (e : Event) : (emit e s).running = s.running := rfl
@[simp] theorem emit_count (e : Event) : (emit e s).count = s.count := rfl
@[simp] theorem emit_responses (e : Event) : (emit e s).responses = s.responses := rfl
@[simp] theorem emit_lastRefusal (e : Event) : (emit e s).lastRefusal = s.lastRefusal := rfl
@[simp] theorem emit_inbox (e : Event) : (emit e s).inbox = s.inbox := rfl

/-! ## refuse -/

@[simp] theorem refuse_i2cAddress (r : RefusalReason) : (refuse r s).i2cAddress = s.i2cAddress := rfl
@[simp] theorem refuse_columns (r : RefusalReason) : (refuse r s).columns = s.columns := rfl
@[simp] theorem refuse_rows (r : RefusalReason) : (refuse r s).rows = s.rows := rfl
@[simp] theorem refuse_charSizeFlag (r : RefusalReason) : (refuse r s).charSizeFlag = s.charSizeFlag := rfl
@[simp] theorem refuse_backlightFlag (r : RefusalReason) : (refuse r s).backlightFlag = s.backlightFlag := rfl
@[simp] theorem refuse_functionFlags (r : RefusalReason) : (refuse r s).functionFlags = s.functionFlags := rfl
@[simp] theorem refuse_controlFlags (r : RefusalReason) : (refuse r s).controlFlags = s.controlFlags := rfl
@[simp] theorem refuse_entryModeFlags (r : RefusalReason) : (refuse r s).entryModeFlags = s.entryModeFlags := rfl
@[simp] theorem refuse_rowOffsets (r : RefusalReason) : (refuse r s).rowOffsets = s.rowOffsets := rfl
@[simp] theorem refuse_phase (r : RefusalReason) : (refuse r s).phase = s.phase := rfl
@[simp] theorem refuse_busy (r : RefusalReason) : (refuse r s).busy = s.busy := rfl
@[simp] theorem refuse_upc (r : RefusalReason) : (refuse r s).upc = s.upc := rfl
@[simp] theorem refuse_trace (r : RefusalReason) : (refuse r s).trace = s.trace := rfl
@[simp] theorem refuse_refused (r : RefusalReason) : (refuse r s).refused = true := rfl
@[simp] theorem refuse_running (r : RefusalReason) : (refuse r s).running = s.running := rfl
@[simp] theorem refuse_count (r : RefusalReason) : (refuse r s).count = s.count := rfl
@[simp] theorem refuse_responses (r : RefusalReason) : (refuse r s).responses = s.responses := rfl
@[simp] theorem refuse_lastRefusal (r : RefusalReason) : (refuse r s).lastRefusal = some r := rfl
@[simp] theorem refuse_inbox (r : RefusalReason) : (refuse r s).inbox = s.inbox := rfl

/-! ## accept -/

@[simp] theorem accept_i2cAddress : (accept s).i2cAddress = s.i2cAddress := rfl
@[simp] theorem accept_columns : (accept s).columns = s.columns := rfl
@[simp] theorem accept_rows : (accept s).rows = s.rows := rfl
@[simp] theorem accept_charSizeFlag : (accept s).charSizeFlag = s.charSizeFlag := rfl
@[simp] theorem accept_backlightFlag : (accept s).backlightFlag = s.backlightFlag := rfl
@[simp] theorem accept_functionFlags : (accept s).functionFlags = s.functionFlags := rfl
@[simp] theorem accept_controlFlags : (accept s).controlFlags = s.controlFlags := rfl
@[simp] theorem accept_entryModeFlags : (accept s).entryModeFlags = s.entryModeFlags := rfl
@[simp] theorem accept_rowOffsets : (accept s).rowOffsets = s.rowOffsets := rfl
@[simp] theorem accept_phase : (accept s).phase = s.phase := rfl
@[simp] theorem accept_busy : (accept s).busy = true := rfl
@[simp] theorem accept_upc : (accept s).upc = 0 := rfl
@[simp] theorem accept_trace : (accept s).trace = s.trace := rfl
@[simp] theorem accept_refused : (accept s).refused = s.refused := rfl
@[simp] theorem accept_running : (accept s).running = s.running := rfl
@[simp] theorem accept_count : (accept s).count = none := rfl
@[simp] theorem accept_responses : (accept s).responses = s.responses := rfl
@[simp] theorem accept_lastRefusal : (accept s).lastRefusal = s.lastRefusal := rfl
@[simp] theorem accept_inbox : (accept s).inbox = s.inbox := rfl

/-! ## start -/

@[simp] theorem start_i2cAddress (p : Program) : (start p s).i2cAddress = s.i2cAddress := rfl
@[simp] theorem start_columns (p : Program) : (start p s).columns = s.columns := rfl
@[simp] theorem start_rows (p : Program) : (start p s).rows = s.rows := rfl
@[simp] theorem start_charSizeFlag (p : Program) : (start p s).charSizeFlag = s.charSizeFlag := rfl
@[simp] theorem start_backlightFlag (p : Program) : (start p s).backlightFlag = s.backlightFlag := rfl
@[simp] theorem start_functionFlags (p : Program) : (start p s).functionFlags = s.functionFlags := rfl
@[simp] theorem start_controlFlags (p : Program) : (start p s).controlFlags = s.controlFlags := rfl
@[simp] theorem start_entryModeFlags (p : Program) : (start p s).entryModeFlags = s.entryModeFlags := rfl
@[simp] theorem start_rowOffsets (p : Program) : (start p s).rowOffsets = s.rowOffsets := rfl
@[simp] theorem start_phase (p : Program) : (start p s).phase = s.phase := rfl
@[simp] theorem start_busy (p : Program) : (start p s).busy = true := rfl
@[simp] theorem start_upc (p : Program) : (start p s).upc = 0 := rfl
@[simp] theorem start_trace (p : Program) : (start p s).trace = s.trace := rfl
@[simp] theorem start_refused (p : Program) : (start p s).refused = s.refused := rfl
@[simp] theorem start_running (p : Program) : (start p s).running = p := rfl
@[simp] theorem start_count (p : Program) : (start p s).count = none := rfl
@[simp] theorem start_responses (p : Program) : (start p s).responses = s.responses := rfl
@[simp] theorem start_lastRefusal (p : Program) : (start p s).lastRefusal = s.lastRefusal := rfl
@[simp] theorem start_inbox (p : Program) : (start p s).inbox = s.inbox := rfl

/-! ## finish -/

@[simp] theorem finish_i2cAddress : (finish s).i2cAddress = s.i2cAddress := rfl
@[simp] theorem finish_columns : (finish s).columns = s.columns := rfl
@[simp] theorem finish_rows : (finish s).rows = s.rows := rfl
@[simp] theorem finish_charSizeFlag : (finish s).charSizeFlag = s.charSizeFlag := rfl
@[simp] theorem finish_backlightFlag : (finish s).backlightFlag = s.backlightFlag := rfl
@[simp] theorem finish_functionFlags : (finish s).functionFlags = s.functionFlags := rfl
@[simp] theorem finish_controlFlags : (finish s).controlFlags = s.controlFlags := rfl
@[simp] theorem finish_entryModeFlags : (finish s).entryModeFlags = s.entryModeFlags := rfl
@[simp] theorem finish_rowOffsets : (finish s).rowOffsets = s.rowOffsets := rfl
@[simp] theorem finish_phase : (finish s).phase = s.phase := rfl
@[simp] theorem finish_busy : (finish s).busy = false := rfl
@[simp] theorem finish_upc : (finish s).upc = 0 := rfl
@[simp] theorem finish_trace : (finish s).trace = s.trace := rfl
@[simp] theorem finish_refused : (finish s).refused = s.refused := rfl
@[simp] theorem finish_running : (finish s).running = [] := rfl
@[simp] theorem finish_count : (finish s).count = none := rfl
@[simp] theorem finish_responses : (finish s).responses = s.responses ++ [s.response] := rfl
@[simp] theorem finish_lastRefusal : (finish s).lastRefusal = s.lastRefusal := rfl
@[simp] theorem finish_inbox : (finish s).inbox = s.inbox := rfl

/-! ## completed -/

@[simp] theorem completed_i2cAddress (es : List Event) (r : Response) : (s.completed es r).i2cAddress = s.i2cAddress := rfl
@[simp] theorem completed_columns (es : List Event) (r : Response) : (s.completed es r).columns = s.columns := rfl
@[simp] theorem completed_rows (es : List Event) (r : Response) : (s.completed es r).rows = s.rows := rfl
@[simp] theorem completed_charSizeFlag (es : List Event) (r : Response) : (s.completed es r).charSizeFlag = s.charSizeFlag := rfl
@[simp] theorem completed_backlightFlag (es : List Event) (r : Response) : (s.completed es r).backlightFlag = s.backlightFlag := rfl
@[simp] theorem completed_functionFlags (es : List Event) (r : Response) : (s.completed es r).functionFlags = s.functionFlags := rfl
@[simp] theorem completed_controlFlags (es : List Event) (r : Response) : (s.completed es r).controlFlags = s.controlFlags := rfl
@[simp] theorem completed_entryModeFlags (es : List Event) (r : Response) : (s.completed es r).entryModeFlags = s.entryModeFlags := rfl
@[simp] theorem completed_rowOffsets (es : List Event) (r : Response) : (s.completed es r).rowOffsets = s.rowOffsets := rfl
@[simp] theorem completed_phase (es : List Event) (r : Response) : (s.completed es r).phase = s.phase := rfl
@[simp] theorem completed_busy (es : List Event) (r : Response) : (s.completed es r).busy = false := rfl
@[simp] theorem completed_upc (es : List Event) (r : Response) : (s.completed es r).upc = 0 := rfl
@[simp] theorem completed_trace (es : List Event) (r : Response) : (s.completed es r).trace = s.trace ++ es := rfl
@[simp] theorem completed_refused (es : List Event) (r : Response) : (s.completed es r).refused = s.refused := rfl
@[simp] theorem completed_running (es : List Event) (r : Response) : (s.completed es r).running = [] := rfl
@[simp] theorem completed_count (es : List Event) (r : Response) : (s.completed es r).count = none := rfl
@[simp] theorem completed_responses (es : List Event) (r : Response) : (s.completed es r).responses = s.responses ++ [r] := rfl
@[simp] theorem completed_lastRefusal (es : List Event) (r : Response) : (s.completed es r).lastRefusal = s.lastRefusal := rfl
@[simp] theorem completed_inbox (es : List Event) (r : Response) : (s.completed es r).inbox = s.inbox := rfl

/-! ## withFetchWord -/

@[simp] theorem withFetchWord_i2cAddress (n w : Nat) : (s.withFetchWord n w).i2cAddress = s.i2cAddress := rfl
@[simp] theorem withFetchWord_columns (n w : Nat) : (s.withFetchWord n w).columns = s.columns := rfl
@[simp] theorem withFetchWord_rows (n w : Nat) : (s.withFetchWord n w).rows = s.rows := rfl
@[simp] theorem withFetchWord_charSizeFlag (n w : Nat) : (s.withFetchWord n w).charSizeFlag = s.charSizeFlag := rfl
@[simp] theorem withFetchWord_backlightFlag (n w : Nat) : (s.withFetchWord n w).backlightFlag = s.backlightFlag := rfl
@[simp] theorem withFetchWord_functionFlags (n w : Nat) : (s.withFetchWord n w).functionFlags = s.functionFlags := rfl
@[simp] theorem withFetchWord_controlFlags (n w : Nat) : (s.withFetchWord n w).controlFlags = s.controlFlags := rfl
@[simp] theorem withFetchWord_entryModeFlags (n w : Nat) : (s.withFetchWord n w).entryModeFlags = s.entryModeFlags := rfl
@[simp] theorem withFetchWord_rowOffsets (n w : Nat) : (s.withFetchWord n w).rowOffsets = s.rowOffsets := rfl
@[simp] theorem withFetchWord_phase (n w : Nat) : (s.withFetchWord n w).phase = s.phase := rfl
@[simp] theorem withFetchWord_busy (n w : Nat) : (s.withFetchWord n w).busy = s.busy := rfl
@[simp] theorem withFetchWord_upc (n w : Nat) : (s.withFetchWord n w).upc = s.upc := rfl
@[simp] theorem withFetchWord_trace (n w : Nat) : (s.withFetchWord n w).trace = s.trace := rfl
@[simp] theorem withFetchWord_refused (n w : Nat) : (s.withFetchWord n w).refused = s.refused := rfl
@[simp] theorem withFetchWord_running (n w : Nat) : (s.withFetchWord n w).running = s.running := rfl
@[simp] theorem withFetchWord_count (n w : Nat) : (s.withFetchWord n w).count = s.count := rfl
@[simp] theorem withFetchWord_responses (n w : Nat) : (s.withFetchWord n w).responses = s.responses := rfl
@[simp] theorem withFetchWord_lastRefusal (n w : Nat) : (s.withFetchWord n w).lastRefusal = s.lastRefusal := rfl
@[simp] theorem withFetchWord_inbox (n w : Nat) : (s.withFetchWord n w).inbox = presentWord n w :: s.inbox := rfl

/-! ## setCount -/

@[simp] theorem setCount_i2cAddress (n : Option Nat) : (setCount n s).i2cAddress = s.i2cAddress := rfl
@[simp] theorem setCount_columns (n : Option Nat) : (setCount n s).columns = s.columns := rfl
@[simp] theorem setCount_rows (n : Option Nat) : (setCount n s).rows = s.rows := rfl
@[simp] theorem setCount_charSizeFlag (n : Option Nat) : (setCount n s).charSizeFlag = s.charSizeFlag := rfl
@[simp] theorem setCount_backlightFlag (n : Option Nat) : (setCount n s).backlightFlag = s.backlightFlag := rfl
@[simp] theorem setCount_functionFlags (n : Option Nat) : (setCount n s).functionFlags = s.functionFlags := rfl
@[simp] theorem setCount_controlFlags (n : Option Nat) : (setCount n s).controlFlags = s.controlFlags := rfl
@[simp] theorem setCount_entryModeFlags (n : Option Nat) : (setCount n s).entryModeFlags = s.entryModeFlags := rfl
@[simp] theorem setCount_rowOffsets (n : Option Nat) : (setCount n s).rowOffsets = s.rowOffsets := rfl
@[simp] theorem setCount_phase (n : Option Nat) : (setCount n s).phase = s.phase := rfl
@[simp] theorem setCount_busy (n : Option Nat) : (setCount n s).busy = s.busy := rfl
@[simp] theorem setCount_upc (n : Option Nat) : (setCount n s).upc = s.upc := rfl
@[simp] theorem setCount_trace (n : Option Nat) : (setCount n s).trace = s.trace := rfl
@[simp] theorem setCount_refused (n : Option Nat) : (setCount n s).refused = s.refused := rfl
@[simp] theorem setCount_running (n : Option Nat) : (setCount n s).running = s.running := rfl
@[simp] theorem setCount_count (n : Option Nat) : (setCount n s).count = n := rfl
@[simp] theorem setCount_responses (n : Option Nat) : (setCount n s).responses = s.responses := rfl
@[simp] theorem setCount_lastRefusal (n : Option Nat) : (setCount n s).lastRefusal = s.lastRefusal := rfl
@[simp] theorem setCount_inbox (n : Option Nat) : (setCount n s).inbox = s.inbox := rfl

/-! ## FieldWrite.apply -/

@[simp] theorem apply_busy (w : FieldWrite) : (w.apply s).busy = s.busy := by cases w <;> rfl
@[simp] theorem apply_upc (w : FieldWrite) : (w.apply s).upc = s.upc := by cases w <;> rfl
@[simp] theorem apply_trace (w : FieldWrite) : (w.apply s).trace = s.trace := by cases w <;> rfl
@[simp] theorem apply_refused (w : FieldWrite) : (w.apply s).refused = s.refused := by cases w <;> rfl
@[simp] theorem apply_running (w : FieldWrite) : (w.apply s).running = s.running := by cases w <;> rfl
@[simp] theorem apply_count (w : FieldWrite) : (w.apply s).count = s.count := by cases w <;> rfl
@[simp] theorem apply_responses (w : FieldWrite) : (w.apply s).responses = s.responses := by cases w <;> rfl
@[simp] theorem apply_lastRefusal (w : FieldWrite) : (w.apply s).lastRefusal = s.lastRefusal := by cases w <;> rfl
@[simp] theorem apply_inbox (w : FieldWrite) : (w.apply s).inbox = s.inbox := by cases w <;> rfl
@[simp] theorem apply_i2cAddress_i2cAddress (b : Byte) : ((FieldWrite.i2cAddress b).apply s).i2cAddress = some b := rfl
@[simp] theorem apply_i2cAddress_columns (b : Byte) : ((FieldWrite.i2cAddress b).apply s).columns = s.columns := rfl
@[simp] theorem apply_i2cAddress_rows (b : Byte) : ((FieldWrite.i2cAddress b).apply s).rows = s.rows := rfl
@[simp] theorem apply_i2cAddress_charSizeFlag (b : Byte) : ((FieldWrite.i2cAddress b).apply s).charSizeFlag = s.charSizeFlag := rfl
@[simp] theorem apply_i2cAddress_backlightFlag (b : Byte) : ((FieldWrite.i2cAddress b).apply s).backlightFlag = s.backlightFlag := rfl
@[simp] theorem apply_i2cAddress_functionFlags (b : Byte) : ((FieldWrite.i2cAddress b).apply s).functionFlags = s.functionFlags := rfl
@[simp] theorem apply_i2cAddress_controlFlags (b : Byte) : ((FieldWrite.i2cAddress b).apply s).controlFlags = s.controlFlags := rfl
@[simp] theorem apply_i2cAddress_entryModeFlags (b : Byte) : ((FieldWrite.i2cAddress b).apply s).entryModeFlags = s.entryModeFlags := rfl
@[simp] theorem apply_i2cAddress_rowOffsets (b : Byte) : ((FieldWrite.i2cAddress b).apply s).rowOffsets = s.rowOffsets := rfl
@[simp] theorem apply_i2cAddress_phase (b : Byte) : ((FieldWrite.i2cAddress b).apply s).phase = s.phase := rfl
@[simp] theorem apply_columns_i2cAddress (b : Byte) : ((FieldWrite.columns b).apply s).i2cAddress = s.i2cAddress := rfl
@[simp] theorem apply_columns_columns (b : Byte) : ((FieldWrite.columns b).apply s).columns = some b := rfl
@[simp] theorem apply_columns_rows (b : Byte) : ((FieldWrite.columns b).apply s).rows = s.rows := rfl
@[simp] theorem apply_columns_charSizeFlag (b : Byte) : ((FieldWrite.columns b).apply s).charSizeFlag = s.charSizeFlag := rfl
@[simp] theorem apply_columns_backlightFlag (b : Byte) : ((FieldWrite.columns b).apply s).backlightFlag = s.backlightFlag := rfl
@[simp] theorem apply_columns_functionFlags (b : Byte) : ((FieldWrite.columns b).apply s).functionFlags = s.functionFlags := rfl
@[simp] theorem apply_columns_controlFlags (b : Byte) : ((FieldWrite.columns b).apply s).controlFlags = s.controlFlags := rfl
@[simp] theorem apply_columns_entryModeFlags (b : Byte) : ((FieldWrite.columns b).apply s).entryModeFlags = s.entryModeFlags := rfl
@[simp] theorem apply_columns_rowOffsets (b : Byte) : ((FieldWrite.columns b).apply s).rowOffsets = s.rowOffsets := rfl
@[simp] theorem apply_columns_phase (b : Byte) : ((FieldWrite.columns b).apply s).phase = s.phase := rfl
@[simp] theorem apply_rows_i2cAddress (b : Byte) : ((FieldWrite.rows b).apply s).i2cAddress = s.i2cAddress := rfl
@[simp] theorem apply_rows_columns (b : Byte) : ((FieldWrite.rows b).apply s).columns = s.columns := rfl
@[simp] theorem apply_rows_rows (b : Byte) : ((FieldWrite.rows b).apply s).rows = some b := rfl
@[simp] theorem apply_rows_charSizeFlag (b : Byte) : ((FieldWrite.rows b).apply s).charSizeFlag = s.charSizeFlag := rfl
@[simp] theorem apply_rows_backlightFlag (b : Byte) : ((FieldWrite.rows b).apply s).backlightFlag = s.backlightFlag := rfl
@[simp] theorem apply_rows_functionFlags (b : Byte) : ((FieldWrite.rows b).apply s).functionFlags = s.functionFlags := rfl
@[simp] theorem apply_rows_controlFlags (b : Byte) : ((FieldWrite.rows b).apply s).controlFlags = s.controlFlags := rfl
@[simp] theorem apply_rows_entryModeFlags (b : Byte) : ((FieldWrite.rows b).apply s).entryModeFlags = s.entryModeFlags := rfl
@[simp] theorem apply_rows_rowOffsets (b : Byte) : ((FieldWrite.rows b).apply s).rowOffsets = s.rowOffsets := rfl
@[simp] theorem apply_rows_phase (b : Byte) : ((FieldWrite.rows b).apply s).phase = s.phase := rfl
@[simp] theorem apply_charSizeFlag_i2cAddress (f : Bool) : ((FieldWrite.charSizeFlag f).apply s).i2cAddress = s.i2cAddress := rfl
@[simp] theorem apply_charSizeFlag_columns (f : Bool) : ((FieldWrite.charSizeFlag f).apply s).columns = s.columns := rfl
@[simp] theorem apply_charSizeFlag_rows (f : Bool) : ((FieldWrite.charSizeFlag f).apply s).rows = s.rows := rfl
@[simp] theorem apply_charSizeFlag_charSizeFlag (f : Bool) : ((FieldWrite.charSizeFlag f).apply s).charSizeFlag = some f := rfl
@[simp] theorem apply_charSizeFlag_backlightFlag (f : Bool) : ((FieldWrite.charSizeFlag f).apply s).backlightFlag = s.backlightFlag := rfl
@[simp] theorem apply_charSizeFlag_functionFlags (f : Bool) : ((FieldWrite.charSizeFlag f).apply s).functionFlags = s.functionFlags := rfl
@[simp] theorem apply_charSizeFlag_controlFlags (f : Bool) : ((FieldWrite.charSizeFlag f).apply s).controlFlags = s.controlFlags := rfl
@[simp] theorem apply_charSizeFlag_entryModeFlags (f : Bool) : ((FieldWrite.charSizeFlag f).apply s).entryModeFlags = s.entryModeFlags := rfl
@[simp] theorem apply_charSizeFlag_rowOffsets (f : Bool) : ((FieldWrite.charSizeFlag f).apply s).rowOffsets = s.rowOffsets := rfl
@[simp] theorem apply_charSizeFlag_phase (f : Bool) : ((FieldWrite.charSizeFlag f).apply s).phase = s.phase := rfl
@[simp] theorem apply_backlightFlag_i2cAddress (f : Bool) : ((FieldWrite.backlightFlag f).apply s).i2cAddress = s.i2cAddress := rfl
@[simp] theorem apply_backlightFlag_columns (f : Bool) : ((FieldWrite.backlightFlag f).apply s).columns = s.columns := rfl
@[simp] theorem apply_backlightFlag_rows (f : Bool) : ((FieldWrite.backlightFlag f).apply s).rows = s.rows := rfl
@[simp] theorem apply_backlightFlag_charSizeFlag (f : Bool) : ((FieldWrite.backlightFlag f).apply s).charSizeFlag = s.charSizeFlag := rfl
@[simp] theorem apply_backlightFlag_backlightFlag (f : Bool) : ((FieldWrite.backlightFlag f).apply s).backlightFlag = some f := rfl
@[simp] theorem apply_backlightFlag_functionFlags (f : Bool) : ((FieldWrite.backlightFlag f).apply s).functionFlags = s.functionFlags := rfl
@[simp] theorem apply_backlightFlag_controlFlags (f : Bool) : ((FieldWrite.backlightFlag f).apply s).controlFlags = s.controlFlags := rfl
@[simp] theorem apply_backlightFlag_entryModeFlags (f : Bool) : ((FieldWrite.backlightFlag f).apply s).entryModeFlags = s.entryModeFlags := rfl
@[simp] theorem apply_backlightFlag_rowOffsets (f : Bool) : ((FieldWrite.backlightFlag f).apply s).rowOffsets = s.rowOffsets := rfl
@[simp] theorem apply_backlightFlag_phase (f : Bool) : ((FieldWrite.backlightFlag f).apply s).phase = s.phase := rfl
@[simp] theorem apply_functionFlags_i2cAddress (b : Byte) : ((FieldWrite.functionFlags b).apply s).i2cAddress = s.i2cAddress := rfl
@[simp] theorem apply_functionFlags_columns (b : Byte) : ((FieldWrite.functionFlags b).apply s).columns = s.columns := rfl
@[simp] theorem apply_functionFlags_rows (b : Byte) : ((FieldWrite.functionFlags b).apply s).rows = s.rows := rfl
@[simp] theorem apply_functionFlags_charSizeFlag (b : Byte) : ((FieldWrite.functionFlags b).apply s).charSizeFlag = s.charSizeFlag := rfl
@[simp] theorem apply_functionFlags_backlightFlag (b : Byte) : ((FieldWrite.functionFlags b).apply s).backlightFlag = s.backlightFlag := rfl
@[simp] theorem apply_functionFlags_functionFlags (b : Byte) : ((FieldWrite.functionFlags b).apply s).functionFlags = some b := rfl
@[simp] theorem apply_functionFlags_controlFlags (b : Byte) : ((FieldWrite.functionFlags b).apply s).controlFlags = s.controlFlags := rfl
@[simp] theorem apply_functionFlags_entryModeFlags (b : Byte) : ((FieldWrite.functionFlags b).apply s).entryModeFlags = s.entryModeFlags := rfl
@[simp] theorem apply_functionFlags_rowOffsets (b : Byte) : ((FieldWrite.functionFlags b).apply s).rowOffsets = s.rowOffsets := rfl
@[simp] theorem apply_functionFlags_phase (b : Byte) : ((FieldWrite.functionFlags b).apply s).phase = s.phase := rfl
@[simp] theorem apply_controlFlags_i2cAddress (b : Byte) : ((FieldWrite.controlFlags b).apply s).i2cAddress = s.i2cAddress := rfl
@[simp] theorem apply_controlFlags_columns (b : Byte) : ((FieldWrite.controlFlags b).apply s).columns = s.columns := rfl
@[simp] theorem apply_controlFlags_rows (b : Byte) : ((FieldWrite.controlFlags b).apply s).rows = s.rows := rfl
@[simp] theorem apply_controlFlags_charSizeFlag (b : Byte) : ((FieldWrite.controlFlags b).apply s).charSizeFlag = s.charSizeFlag := rfl
@[simp] theorem apply_controlFlags_backlightFlag (b : Byte) : ((FieldWrite.controlFlags b).apply s).backlightFlag = s.backlightFlag := rfl
@[simp] theorem apply_controlFlags_functionFlags (b : Byte) : ((FieldWrite.controlFlags b).apply s).functionFlags = s.functionFlags := rfl
@[simp] theorem apply_controlFlags_controlFlags (b : Byte) : ((FieldWrite.controlFlags b).apply s).controlFlags = some b := rfl
@[simp] theorem apply_controlFlags_entryModeFlags (b : Byte) : ((FieldWrite.controlFlags b).apply s).entryModeFlags = s.entryModeFlags := rfl
@[simp] theorem apply_controlFlags_rowOffsets (b : Byte) : ((FieldWrite.controlFlags b).apply s).rowOffsets = s.rowOffsets := rfl
@[simp] theorem apply_controlFlags_phase (b : Byte) : ((FieldWrite.controlFlags b).apply s).phase = s.phase := rfl
@[simp] theorem apply_entryModeFlags_i2cAddress (b : Byte) : ((FieldWrite.entryModeFlags b).apply s).i2cAddress = s.i2cAddress := rfl
@[simp] theorem apply_entryModeFlags_columns (b : Byte) : ((FieldWrite.entryModeFlags b).apply s).columns = s.columns := rfl
@[simp] theorem apply_entryModeFlags_rows (b : Byte) : ((FieldWrite.entryModeFlags b).apply s).rows = s.rows := rfl
@[simp] theorem apply_entryModeFlags_charSizeFlag (b : Byte) : ((FieldWrite.entryModeFlags b).apply s).charSizeFlag = s.charSizeFlag := rfl
@[simp] theorem apply_entryModeFlags_backlightFlag (b : Byte) : ((FieldWrite.entryModeFlags b).apply s).backlightFlag = s.backlightFlag := rfl
@[simp] theorem apply_entryModeFlags_functionFlags (b : Byte) : ((FieldWrite.entryModeFlags b).apply s).functionFlags = s.functionFlags := rfl
@[simp] theorem apply_entryModeFlags_controlFlags (b : Byte) : ((FieldWrite.entryModeFlags b).apply s).controlFlags = s.controlFlags := rfl
@[simp] theorem apply_entryModeFlags_entryModeFlags (b : Byte) : ((FieldWrite.entryModeFlags b).apply s).entryModeFlags = some b := rfl
@[simp] theorem apply_entryModeFlags_rowOffsets (b : Byte) : ((FieldWrite.entryModeFlags b).apply s).rowOffsets = s.rowOffsets := rfl
@[simp] theorem apply_entryModeFlags_phase (b : Byte) : ((FieldWrite.entryModeFlags b).apply s).phase = s.phase := rfl
@[simp] theorem apply_rowOffset_i2cAddress (i : Fin 4) (b : Byte) : ((FieldWrite.rowOffset i b).apply s).i2cAddress = s.i2cAddress := rfl
@[simp] theorem apply_rowOffset_columns (i : Fin 4) (b : Byte) : ((FieldWrite.rowOffset i b).apply s).columns = s.columns := rfl
@[simp] theorem apply_rowOffset_rows (i : Fin 4) (b : Byte) : ((FieldWrite.rowOffset i b).apply s).rows = s.rows := rfl
@[simp] theorem apply_rowOffset_charSizeFlag (i : Fin 4) (b : Byte) : ((FieldWrite.rowOffset i b).apply s).charSizeFlag = s.charSizeFlag := rfl
@[simp] theorem apply_rowOffset_backlightFlag (i : Fin 4) (b : Byte) : ((FieldWrite.rowOffset i b).apply s).backlightFlag = s.backlightFlag := rfl
@[simp] theorem apply_rowOffset_functionFlags (i : Fin 4) (b : Byte) : ((FieldWrite.rowOffset i b).apply s).functionFlags = s.functionFlags := rfl
@[simp] theorem apply_rowOffset_controlFlags (i : Fin 4) (b : Byte) : ((FieldWrite.rowOffset i b).apply s).controlFlags = s.controlFlags := rfl
@[simp] theorem apply_rowOffset_entryModeFlags (i : Fin 4) (b : Byte) : ((FieldWrite.rowOffset i b).apply s).entryModeFlags = s.entryModeFlags := rfl
@[simp] theorem apply_rowOffset_rowOffsets (i : Fin 4) (b : Byte) : ((FieldWrite.rowOffset i b).apply s).rowOffsets = s.rowOffsets.write i b := rfl
@[simp] theorem apply_rowOffset_phase (i : Fin 4) (b : Byte) : ((FieldWrite.rowOffset i b).apply s).phase = s.phase := rfl
@[simp] theorem apply_phase_i2cAddress (p : Phase) : ((FieldWrite.phase p).apply s).i2cAddress = s.i2cAddress := rfl
@[simp] theorem apply_phase_columns (p : Phase) : ((FieldWrite.phase p).apply s).columns = s.columns := rfl
@[simp] theorem apply_phase_rows (p : Phase) : ((FieldWrite.phase p).apply s).rows = s.rows := rfl
@[simp] theorem apply_phase_charSizeFlag (p : Phase) : ((FieldWrite.phase p).apply s).charSizeFlag = s.charSizeFlag := rfl
@[simp] theorem apply_phase_backlightFlag (p : Phase) : ((FieldWrite.phase p).apply s).backlightFlag = s.backlightFlag := rfl
@[simp] theorem apply_phase_functionFlags (p : Phase) : ((FieldWrite.phase p).apply s).functionFlags = s.functionFlags := rfl
@[simp] theorem apply_phase_controlFlags (p : Phase) : ((FieldWrite.phase p).apply s).controlFlags = s.controlFlags := rfl
@[simp] theorem apply_phase_entryModeFlags (p : Phase) : ((FieldWrite.phase p).apply s).entryModeFlags = s.entryModeFlags := rfl
@[simp] theorem apply_phase_rowOffsets (p : Phase) : ((FieldWrite.phase p).apply s).rowOffsets = s.rowOffsets := rfl
@[simp] theorem apply_phase_phase (p : Phase) : ((FieldWrite.phase p).apply s).phase = p := rfl

/-! ## The row-offset table -/

variable (x : RowOffsets) (b : Byte)

@[simp] theorem write_zero : x.write 0 b = ⟨some b, x.x1, x.x2, x.x3⟩ := rfl
@[simp] theorem write_one : x.write 1 b = ⟨x.x0, some b, x.x2, x.x3⟩ := rfl
@[simp] theorem write_two : x.write 2 b = ⟨x.x0, x.x1, some b, x.x3⟩ := rfl
@[simp] theorem write_three : x.write 3 b = ⟨x.x0, x.x1, x.x2, some b⟩ := rfl

/-- Reading an entry gives what was written to it; another entry reads as before. -/
theorem read_write (i : Fin 4) (n : Nat) : (x.write i b).read n = if n = i then some b else x.read n := by
  match i, n with
  | 0, 0 | 0, 1 | 0, 2 | 0, 3 | 1, 0 | 1, 1 | 1, 2 | 1, 3 => rfl
  | 2, 0 | 2, 1 | 2, 2 | 2, 3 | 3, 0 | 3, 1 | 3, 2 | 3, 3 => rfl
  | 0, n + 4 | 1, n + 4 | 2, n + 4 | 3, n + 4 => simp [RowOffsets.read]

end Sys2Proof.Machine
end

