-- ==== Sys2Proof/Laws/Ops.lean ====
section
/-! SUPPORT. What the shared operations do, said once: how a bus program drains, what completion leaves, and what
`serve` answers. -/

namespace Sys2Proof.Machine

/-! ## Emitting a list of events -/

/-- `s` after these events. -/
def emitAll (es : List Event) (s : State) : State :=
  { s with trace := s.trace ++ es, upc := s.upc + es.length }

section
variable (es fs : List Event) (s : State)

@[simp] theorem emitAll_i2cAddress : (emitAll es s).i2cAddress = s.i2cAddress := rfl
@[simp] theorem emitAll_columns : (emitAll es s).columns = s.columns := rfl
@[simp] theorem emitAll_rows : (emitAll es s).rows = s.rows := rfl
@[simp] theorem emitAll_charSizeFlag : (emitAll es s).charSizeFlag = s.charSizeFlag := rfl
@[simp] theorem emitAll_backlightFlag : (emitAll es s).backlightFlag = s.backlightFlag := rfl
@[simp] theorem emitAll_functionFlags : (emitAll es s).functionFlags = s.functionFlags := rfl
@[simp] theorem emitAll_controlFlags : (emitAll es s).controlFlags = s.controlFlags := rfl
@[simp] theorem emitAll_entryModeFlags : (emitAll es s).entryModeFlags = s.entryModeFlags := rfl
@[simp] theorem emitAll_rowOffsets : (emitAll es s).rowOffsets = s.rowOffsets := rfl
@[simp] theorem emitAll_phase : (emitAll es s).phase = s.phase := rfl
@[simp] theorem emitAll_busy : (emitAll es s).busy = s.busy := rfl
@[simp] theorem emitAll_upc : (emitAll es s).upc = s.upc + es.length := rfl
@[simp] theorem emitAll_trace : (emitAll es s).trace = s.trace ++ es := rfl
@[simp] theorem emitAll_refused : (emitAll es s).refused = s.refused := rfl
@[simp] theorem emitAll_running : (emitAll es s).running = s.running := rfl
@[simp] theorem emitAll_count : (emitAll es s).count = s.count := rfl
@[simp] theorem emitAll_responses : (emitAll es s).responses = s.responses := rfl
@[simp] theorem emitAll_lastRefusal : (emitAll es s).lastRefusal = s.lastRefusal := rfl
@[simp] theorem emitAll_inbox : (emitAll es s).inbox = s.inbox := rfl

@[simp] theorem emitAll_nil : emitAll [] s = s := by simp [emitAll]

theorem emit_eq_emitAll (e : Event) : emit e s = emitAll [e] s := rfl

@[simp] theorem emitAll_emitAll : emitAll fs (emitAll es s) = emitAll (es ++ fs) s := by
  simp [emitAll, Nat.add_assoc]

end

/-! ## Draining a program -/

@[simp] theorem drain_nil (c : Config) (s : State) : drain c [] s = s := rfl

theorem drain_cons (c : Config) (m : Micro) (p : Program) (s : State) :
    drain c (m :: p) s = if m.stops c s then s else drain c p (m.run c s) := rfl

/-- A program none of whose steps ends the operation is followed by what stands behind it. -/
theorem drain_append (c : Config) (p q : Program) (s : State) (h : ∀ m ∈ p, ∀ t, m.stops c t = false) :
    drain c (p ++ q) s = drain c q (drain c p s) := by
  induction p generalizing s with
  | nil => rfl
  | cons m p ih =>
    have hm := h m (by simp)
    simp only [List.cons_append, drain_cons, hm]
    exact ih _ fun m' hm' => h m' (by simp [hm'])

/-- What every step of a program keeps, the whole program keeps. -/
theorem drain_induct {c : Config} {p : Program} {s : State} (P : State → Prop)
    (h : ∀ m ∈ p, ∀ t, P t → P (m.run c t)) (hs : P s) : P (drain c p s) := by
  induction p generalizing s with
  | nil => exact hs
  | cons m p ih =>
    rw [drain_cons]
    split
    · exact hs
    · exact ih (fun m' hm' => h m' (by simp [hm'])) (h m (by simp) s hs)

/-- The event of a bus step, with the address and the backlight flag it reads. -/
def busEvent (c : Config) (addr : Byte) (on : Bool) : Micro → List Event
  | .openChannel => [.openChannel]
  | .xwr d => [.txn addr (d ||| backlightMask c on)]
  | .hold h => [.delay h.min h.use]
  | .write _ => []
  | .startCount => []
  | .tally _ => []

/-- A step that emits exactly one event. -/
def Micro.isBus : Micro → Bool
  | .openChannel => true
  | .xwr _ => true
  | .hold _ => true
  | .write _ => false
  | .startCount => false
  | .tally _ => false

theorem run_of_isBus {c : Config} {m : Micro} {s : State} {addr : Byte} {on : Bool} (hm : m.isBus = true)
    (ha : s.i2cAddress = some addr) (hb : s.backlightFlag = some on) :
    m.run c s = emitAll (busEvent c addr on m) s := by
  cases m with
  | xwr d => simp [Micro.run, transmit, ha, hb, memWrite, busEvent, emit_eq_emitAll]
  | openChannel => rfl
  | hold h => rfl
  | write w => simp [Micro.isBus] at hm
  | startCount => simp [Micro.isBus] at hm
  | tally b => simp [Micro.isBus] at hm

theorem stops_of_isBus {c : Config} {m : Micro} {s : State} (hm : m.isBus = true) : m.stops c s = false := by
  cases m <;> simp_all [Micro.isBus, Micro.stops]

/-- A program of bus steps emits their events, in order, and nothing else; what stands behind it then runs. -/
theorem drain_bus_append {c : Config} {p : Program} {s : State} {addr : Byte} {on : Bool} (q : Program)
    (hp : ∀ m ∈ p, m.isBus = true) (ha : s.i2cAddress = some addr) (hb : s.backlightFlag = some on) :
    drain c (p ++ q) s = drain c q (emitAll (p.flatMap (busEvent c addr on)) s) := by
  induction p generalizing s with
  | nil => simp
  | cons m p ih =>
    have hm : m.isBus = true := hp m (by simp)
    rw [List.cons_append, drain_cons, stops_of_isBus hm, run_of_isBus hm ha hb]
    simp only [Bool.false_eq_true, if_false]
    rw [ih (fun m' hm' => hp m' (by simp [hm'])) (by simpa using ha) (by simpa using hb)]
    simp

theorem drain_bus {c : Config} {p : Program} {s : State} {addr : Byte} {on : Bool}
    (hp : ∀ m ∈ p, m.isBus = true) (ha : s.i2cAddress = some addr) (hb : s.backlightFlag = some on) :
    drain c p s = emitAll (p.flatMap (busEvent c addr on)) s := by
  simpa using drain_bus_append [] hp ha hb

@[simp] theorem w4Micros_isBus (c : Config) (v : Byte) : ∀ m ∈ w4Micros c v, m.isBus = true := by
  simp [w4Micros, Micro.isBus]

@[simp] theorem sendMicros_isBus (c : Config) (v : Byte) (mode : Mode) :
    ∀ m ∈ sendMicros c v mode, m.isBus = true := by
  simp [sendMicros, w4Micros, Micro.isBus]

/-! ## The frames under the default configuration -/

/-- The register-select level of a mode (R60: 0 command, 1 data). -/
def Mode.isData : Mode → Bool
  | .command => false
  | .data => true

@[simp] theorem backlightMask_standard (on : Bool) : backlightMask standard on = blBit on := rfl

theorem w4_events (addr v : Byte) (on : Bool) :
    (w4Micros standard v).flatMap (busEvent standard addr on) = nibbleFrame addr v on := rfl

theorem nibbleFrame_high (addr v : Byte) (mode : Mode) (on : Bool) :
    nibbleFrame addr (highNibbleByte standard v mode) on
      = halfFrame addr (v.extractLsb' 4 4) (Mode.isData mode) on := by
  simp only [nibbleFrame, halfFrame, List.cons.injEq, Event.txn.injEq, true_and, and_true]
  cases mode <;> cases on <;> revert v <;> decide

theorem nibbleFrame_low (addr v : Byte) (mode : Mode) (on : Bool) :
    nibbleFrame addr (lowNibbleByte standard v mode) on
      = halfFrame addr (v.extractLsb' 0 4) (Mode.isData mode) on := by
  simp only [nibbleFrame, halfFrame, List.cons.injEq, Event.txn.injEq, true_and, and_true]
  cases mode <;> cases on <;> revert v <;> decide

/-- The byte frame of R63 is what `SEND`'s expansion emits. -/
theorem send_events (addr v : Byte) (mode : Mode) (on : Bool) :
    (sendMicros standard v mode).flatMap (busEvent standard addr on)
      = byteFrame addr v (Mode.isData mode) on := by
  simp [sendMicros, byteFrame, w4_events, nibbleFrame_high, nibbleFrame_low]

theorem drain_w4_append {s : State} {addr : Byte} {on : Bool} (v : Byte) (q : Program)
    (ha : s.i2cAddress = some addr) (hb : s.backlightFlag = some on) :
    drain standard (w4Micros standard v ++ q) s = drain standard q (emitAll (nibbleFrame addr v on) s) := by
  rw [drain_bus_append q (w4Micros_isBus _ _) ha hb, w4_events]

theorem drain_send_append {s : State} {addr : Byte} {on : Bool} (v : Byte) (mode : Mode) (q : Program)
    (ha : s.i2cAddress = some addr) (hb : s.backlightFlag = some on) :
    drain standard (sendMicros standard v mode ++ q) s
      = drain standard q (emitAll (byteFrame addr v (Mode.isData mode) on) s) := by
  rw [drain_bus_append q (sendMicros_isBus _ _ _) ha hb, send_events]

theorem drain_cmd_append {s : State} {addr : Byte} {on : Bool} (v : Byte) (q : Program)
    (ha : s.i2cAddress = some addr) (hb : s.backlightFlag = some on) :
    drain standard (cmdMicros standard v ++ q) s
      = drain standard q (emitAll (byteFrame addr v false on) s) :=
  drain_send_append v .command q ha hb

theorem drain_dat_append {s : State} {addr : Byte} {on : Bool} (v : Byte) (q : Program)
    (ha : s.i2cAddress = some addr) (hb : s.backlightFlag = some on) :
    drain standard (datMicros standard v ++ q) s
      = drain standard q (emitAll (byteFrame addr v true on) s) :=
  drain_send_append v .data q ha hb

/-! ## Completion and admission -/

/-- An operation that only emitted, and counted nothing, completes so. -/
@[simp] theorem finish_emitAll_accept (es : List Event) (s : State) :
    finish (emitAll es (accept s)) = s.completed es .done := by
  simp [finish, emitAll, accept, State.completed, State.response]

/-- A bus program run whole: its events, and completion. -/
theorem perform_bus {c : Config} {p : Program} {s : State} {addr : Byte} {on : Bool}
    (hp : ∀ m ∈ p, m.isBus = true) (ha : s.i2cAddress = some addr) (hb : s.backlightFlag = some on) :
    perform c p s = s.completed (p.flatMap (busEvent c addr on)) .done := by
  rw [perform, drain_bus hp (by simpa using ha) (by simpa using hb), finish_emitAll_accept]

@[simp] theorem serve_refused (r : RefusalReason) (p : Option Program) (go : Program → State → State) (s : State) :
    serve (some r) p go s = .next (refuse r s) := rfl

@[simp] theorem serve_accepted (p : Program) (go : Program → State → State) (s : State) :
    serve none (some p) go s = .next (go p s) := rfl

@[simp] theorem serve_unwritten (go : Program → State → State) (s : State) :
    serve none none go s = .next (refuse .unconstructed s) := rfl

/-- Everything `serve` can answer: a refusal that changes nothing but the refusal's record, or the operation. -/
theorem serve_cases {adm : Option RefusalReason} {p : Option Program} {go : Program → State → State} {s t : State}
    (h : serve adm p go s = .next t) :
    (∃ r, t = refuse r s) ∨ (adm = none ∧ ∃ q, p = some q ∧ t = go q s) := by
  cases adm with
  | some r => exact .inl ⟨r, by simpa using h.symm⟩
  | none =>
    cases p with
    | none => exact .inl ⟨.unconstructed, by simpa using h.symm⟩
    | some q => exact .inr ⟨rfl, q, rfl, by simpa using h.symm⟩

@[simp] theorem admission_of_ready {s : State} {addr : Byte} {on : Bool} (h : s.Ready addr on) :
    admission .begun s = none := by
  simp [admission, h.1, h.2.1, phaseRefusal]

theorem onBus_of_ready {s : State} {addr : Byte} {on : Bool} (h : s.Ready addr on) (p : Program) :
    s.onBus p = some p := by
  simp [State.onBus, h.2.2.1, h.2.2.2]

/-- A bus operation in a ready state: it emits its events and completes. -/
theorem serve_bus_of_ready {c : Config} {p : Program} {s : State} {addr : Byte} {on : Bool} (h : s.Ready addr on)
    (hp : ∀ m ∈ p, m.isBus = true) :
    serve (admission .begun s) (s.onBus p) (perform c) s
      = .next (s.completed (p.flatMap (busEvent c addr on)) .done) := by
  rw [admission_of_ready h, onBus_of_ready h, serve_accepted, perform_bus hp h.2.2.1 h.2.2.2]

/-- When the three admissions accept (60_exceptions.md R153). -/
theorem admission_begun_eq_none {s : State} :
    admission .begun s = none ↔ s.busy = false ∧ s.phase = .begun := by
  cases hb : s.busy <;> cases hp : s.phase <;> simp [admission, phaseRefusal, hb, hp]

theorem admission_constructed_eq_none {s : State} :
    admission .constructed s = none ↔ s.busy = false ∧ s.phase ≠ .unconstructed := by
  cases hb : s.busy <;> cases hp : s.phase <;> simp [admission, phaseRefusal, hb, hp]

theorem constructAdmission_eq_none {s : State} {rows : Byte} :
    constructAdmission rows s = none ↔ s.busy = false ∧ s.phase = .unconstructed ∧ rows ≠ 0 := by
  by_cases hr : rows = 0 <;> cases hb : s.busy <;> cases hp : s.phase <;>
    simp [constructAdmission, admission, phaseRefusal, hb, hp, hr]

/-! ## Counted data bytes (40_sequencer_core.md R99, 42_display_ops.md R146) -/

/-- An operation that emitted and counted completes so. -/
theorem finish_counted (es : List Event) (n : Nat) (s : State) :
    finish (setCount (some n) (emitAll es (accept s))) = s.completed es (.count n) := by
  simp [finish, setCount, emitAll, accept, State.completed, State.response]

theorem setCount_emitAll (es : List Event) (n : Option Nat) (s : State) :
    emitAll es (setCount n s) = setCount n (emitAll es s) := rfl

@[simp] theorem setCount_setCount (m n : Option Nat) (s : State) : setCount m (setCount n s) = setCount m s := rfl

/-- Setting the count to what it is changes nothing. -/
theorem setCount_self (s : State) : setCount s.count s = s := rfl

/-- A counted `DAT` under any `WRITE_FAILS`: its frame is sent; then it is counted, or the operation returns. -/
theorem drain_counted_append {f : State → Byte → Bool} {s : State} {addr : Byte} {on : Bool} {n : Nat} (v : Byte)
    (q : Program) (ha : s.i2cAddress = some addr) (hb : s.backlightFlag = some on) (hn : s.count = some n) :
    drain (standard.withWriteFails f) (countedDatMicros (standard.withWriteFails f) v ++ q) s
      = if f (emitAll (byteFrame addr v true on) s).architectural v = true then emitAll (byteFrame addr v true on) s
        else drain (standard.withWriteFails f) q (setCount (some (n + 1)) (emitAll (byteFrame addr v true on) s)) := by
  have hp : countedDatMicros (standard.withWriteFails f) v = sendMicros standard v .data ++ [.tally v] := rfl
  have hd := drain_bus_append (c := standard.withWriteFails f) (.tally v :: q)
    (sendMicros_isBus standard v .data) ha hb
  have he : (sendMicros standard v .data).flatMap (busEvent (standard.withWriteFails f) addr on)
      = byteFrame addr v true on := send_events addr v .data on
  rw [he] at hd
  rw [hp, List.append_assoc]
  refine hd.trans ?_
  simp only [drain_cons, Micro.stops, Micro.run, emitAll_count, hn, Option.map_some]
  rfl

/-- A text none of whose bytes fails is sent and counted whole. -/
theorem drain_text_append {f : Byte → Bool} {s : State} {addr : Byte} {on : Bool} {n : Nat} (text : List Byte)
    (q : Program) (hf : ∀ b ∈ text, f b = false) (ha : s.i2cAddress = some addr)
    (hb : s.backlightFlag = some on) (hn : s.count = some n) :
    drain (standard.withWriteFails fun _ b => f b)
        (text.flatMap (countedDatMicros (standard.withWriteFails fun _ b => f b)) ++ q) s
      = drain (standard.withWriteFails fun _ b => f b) q
        (setCount (some (n + text.length)) (emitAll (text.flatMap fun b => byteFrame addr b true on) s)) := by
  induction text generalizing s n with
  | nil => simp [← hn, setCount_self]
  | cons b text ih =>
    rw [List.flatMap_cons, List.append_assoc, drain_counted_append b _ ha hb hn]
    simp only [hf b (by simp), Bool.false_eq_true, if_false]
    rw [ih (n := n + 1) (fun b' hb' => hf b' (by simp [hb'])) (by simpa using ha) (by simpa using hb) rfl]
    simp [setCount_emitAll, Nat.add_assoc, Nat.add_comm]

end Sys2Proof.Machine
end

