-- ==== Sys2Proof/Laws/Exec.lean ====
section
/-! SUPPORT. `exec` is `execWith` at the default configuration, so what is proved of the one holds of the other; and
the two orders of evaluation of an operation in progress. -/

namespace Sys2Proof.Machine

theorem exec_eq_execWith (i : Instr) (s : State) : exec i s = execWith standard i s := by
  cases i <;> rfl

/-- Everything an instruction can answer, once for all of them. -/
theorem exec_cases {i : Instr} {s t : State} (h : exec i s = .next t) :
    (∃ r, t = refuse r s)
      ∨ (refusalOf i s = none ∧ ∃ p, programOf standard i s = some p ∧ t = perform standard p s) := by
  rw [exec_eq_execWith] at h
  exact serve_cases h

end Sys2Proof.Machine
end

