-- ==== Sys2Proof/Laws/Observer.lean ====
section
/-! SUPPORT. The observer's functions on traces put end to end. -/

namespace Sys2Proof.Machine

@[simp] theorem transactions_nil : transactions [] = [] := rfl
@[simp] theorem transactions_txn (a b : Byte) (es : List Event) :
    transactions (.txn a b :: es) = (a, b) :: transactions es := rfl
@[simp] theorem transactions_delay (m : Option Nat) (u : Nat) (es : List Event) :
    transactions (.delay m u :: es) = transactions es := rfl
@[simp] theorem transactions_open (es : List Event) :
    transactions (.openChannel :: es) = transactions es := rfl

@[simp] theorem transactions_append (es fs : List Event) :
    transactions (es ++ fs) = transactions es ++ transactions fs := by
  induction es with
  | nil => rfl
  | cons e es ih => cases e <;> simp [ih]

theorem mem_transactions (es : List Event) (a b : Byte) : (a, b) ∈ transactions es ↔ .txn a b ∈ es := by
  induction es with
  | nil => simp
  | cons e es ih => cases e <;> simp [ih]

@[simp] theorem txnBytes_append (es fs : List Event) : txnBytes (es ++ fs) = txnBytes es ++ txnBytes fs := by
  simp [txnBytes]

/-- Events with no transaction to an address leave its port as it was. -/
theorem portAt_append_of_not_mem (addr : Byte) (es fs : List Event) (h : ∀ b, .txn addr b ∉ fs) :
    portAt addr (es ++ fs) = portAt addr es := by
  have : (transactions fs).filter (fun t => t.1 = addr) = [] := by
    rw [List.filter_eq_nil_iff]
    rintro ⟨a, b⟩ hm
    rw [mem_transactions] at hm
    simp only [decide_eq_true_eq]
    rintro rfl
    exact h b hm
  simp [portAt, this]

/-- A port reads as the byte last written to it (20_memory.md R42). -/
theorem portAt_append_txn (addr b : Byte) (es : List Event) :
    portAt addr (es ++ [.txn addr b]) = some b := by
  simp [portAt]

@[simp] theorem latchesFrom_nil (c : Config) (p : Option Byte) : latchesFrom c p [] = [] := by
  cases p <;> rfl

@[simp] theorem latchesFrom_some_cons (c : Config) (p b : Byte) (bs : List Byte) :
    latchesFrom c (some p) (b :: bs) = latchOf c p b ++ latchesFrom c (some b) bs := rfl

@[simp] theorem latchesFrom_none_cons (c : Config) (b : Byte) (bs : List Byte) :
    latchesFrom c none (b :: bs) = latchesFrom c (some b) bs := rfl

theorem latchesFrom_append (c : Config) (p : Option Byte) (as bs : List Byte) :
    latchesFrom c p (as ++ bs) = latchesFrom c p as ++ latchesFrom c (as.getLast?.or p) bs := by
  induction as generalizing p with
  | nil => simp
  | cons a as ih =>
    have key : (a :: as).getLast?.or p = as.getLast?.or (some a) := by cases as <;> simp [List.getLast?_cons]
    rw [key]
    cases p <;> simp only [List.cons_append, latchesFrom_none_cons, latchesFrom_some_cons, ih, List.append_assoc]

/-- The latches of a longer trace: those of its start, and those of its end after the last byte before it. -/
theorem latches_append (c : Config) (es fs : List Event) :
    latches c (es ++ fs) = latches c es ++ latchesFrom c (txnBytes es).getLast? (txnBytes fs) := by
  simp [latches, latchesFrom_append]

@[simp] theorem minHoldNs_append (es fs : List Event) : minHoldNs (es ++ fs) = minHoldNs es + minHoldNs fs := by
  simp [minHoldNs]

@[simp] theorem useHoldNs_append (es fs : List Event) : useHoldNs (es ++ fs) = useHoldNs es + useHoldNs fs := by
  simp [useHoldNs]

@[simp] theorem promisedHoldNs_append (es fs : List Event) :
    promisedHoldNs (es ++ fs) = promisedHoldNs es + promisedHoldNs fs := by
  simp [promisedHoldNs]

/-! ## The frames, observed -/

section
variable (addr : Byte) (n : Nibble) (v : Byte) (rs on : Bool)

@[simp] theorem halfFrame_length : (halfFrame addr n rs on).length = 5 := rfl
@[simp] theorem halfFrame_txns : (halfFrame addr n rs on).countP Event.isTxn = 3 := by
  simp [halfFrame, List.countP_cons, Event.isTxn]
@[simp] theorem halfFrame_holds : (halfFrame addr n rs on).countP Event.isHold = 2 := by
  simp [halfFrame, List.countP_cons, Event.isHold]
@[simp] theorem halfFrame_minNs : minHoldNs (halfFrame addr n rs on) = 37450 := by
  simp [halfFrame, minHoldNs, Event.minNs]
@[simp] theorem halfFrame_useNs : useHoldNs (halfFrame addr n rs on) = 51000 := by
  simp [halfFrame, useHoldNs, Event.useNs]

@[simp] theorem byteFrame_length : (byteFrame addr v rs on).length = 10 := rfl
@[simp] theorem byteFrame_txns : (byteFrame addr v rs on).countP Event.isTxn = 6 := by simp [byteFrame]
@[simp] theorem byteFrame_holds : (byteFrame addr v rs on).countP Event.isHold = 4 := by simp [byteFrame]
@[simp] theorem byteFrame_minNs : minHoldNs (byteFrame addr v rs on) = 74900 := by simp [byteFrame]
@[simp] theorem byteFrame_useNs : useHoldNs (byteFrame addr v rs on) = 102000 := by simp [byteFrame]

theorem halfFrame_last : (txnBytes (halfFrame addr n rs on)).getLast? = some (xbyteOf n on false false rs) := rfl

theorem xbyteOf_enable_low : xbyteOf n on false false rs &&& 0x04 = 0 := by
  cases rs <;> cases on <;> revert n <;> decide

/-- A nibble frame of the driver, started with enable low or on an empty trace, latches its nibble once. -/
theorem halfFrame_latch {p : Option Byte} (hp : ∀ b, p = some b → b &&& 0x04 = 0) :
    latchesFrom standard p (txnBytes (halfFrame addr n rs on)) = [.nibble n rs] := by
  have key : ∀ b : Byte, b &&& 0x04 = 0 →
      latchesFrom standard (some b) (txnBytes (halfFrame addr n rs on)) = [.nibble n rs] := by
    intro b hb
    have h0 : latchOf standard b (xbyteOf n on false false rs) = [] := by
      have : b &&& standard.enMask = 0 := hb
      simp [latchOf, this]
    simp [halfFrame, txnBytes, h0]
    clear h0 hb
    cases rs <;> cases on <;> revert n <;> decide
  cases p with
  | some b => exact key b (hp b rfl)
  | none =>
    rw [← key 0 rfl]
    simp [halfFrame, txnBytes, latchOf, standard]

/-- A byte frame latches its two nibbles, the high one first. -/
theorem byteFrame_latch {p : Option Byte} (hp : ∀ b, p = some b → b &&& 0x04 = 0) :
    latchesFrom standard p (txnBytes (byteFrame addr v rs on))
      = [.nibble (v.extractLsb' 4 4) rs, .nibble (v.extractLsb' 0 4) rs] := by
  rw [byteFrame, txnBytes_append, latchesFrom_append, halfFrame_latch _ _ _ _ hp, halfFrame_last,
    halfFrame_latch _ _ _ _ fun b hb => by cases hb; exact xbyteOf_enable_low _ _ _]
  rfl

end

end Sys2Proof.Machine
end

