-- ==== Sys2Proof/Laws/Frames.lean ====
section
/-! SUPPORT. What an operation can write and what it can send, said once for all instructions: the field writes of an
expansion, one step of it, and the whole of it. -/

namespace Sys2Proof.Machine

/-! ## The field writes of an expansion (10_state.md R24) -/

/-- The fields an instruction's expansion can write. -/
def mayWrite : Instr → FieldWrite → Bool
  | .construct _ _ _, .i2cAddress _ => true
  | .construct _ _ _, .columns _ => true
  | .construct _ _ _, .rows _ => true
  | .construct _ _ _, .charSizeFlag _ => true
  | .construct _ _ _, .backlightFlag _ => true
  | .construct _ _ _, .phase _ => true
  | .begin, .functionFlags _ => true
  | .begin, .rowOffset _ _ => true
  | .begin, .controlFlags _ => true
  | .begin, .entryModeFlags _ => true
  | .begin, .phase _ => true
  | .backlight _, .backlightFlag _ => true
  | .display _, .controlFlags _ => true
  | .cursor _, .controlFlags _ => true
  | .blink _, .controlFlags _ => true
  | .textDir _, .entryModeFlags _ => true
  | .autoscroll _, .entryModeFlags _ => true
  | _, _ => false

theorem onBus_eq_some {s : State} {p q : Program} (h : s.onBus p = some q) :
    q = p ∧ (∃ a, s.i2cAddress = some a) ∧ ∃ b, s.backlightFlag = some b := by
  unfold State.onBus at h
  split at h
  · next hc =>
    simp only [Bool.and_eq_true, Option.isSome_iff_exists] at hc
    exact ⟨by simpa using h.symm, hc⟩
  · cases h

theorem not_mem_w4Micros (c : Config) (v : Byte) (w : FieldWrite) : Micro.write w ∉ w4Micros c v := by
  simp [w4Micros]

theorem not_mem_sendMicros (c : Config) (v : Byte) (m : Mode) (w : FieldWrite) :
    Micro.write w ∉ sendMicros c v m := by
  simp [sendMicros, not_mem_w4Micros]

theorem not_mem_cmdMicros (c : Config) (v : Byte) (w : FieldWrite) : Micro.write w ∉ cmdMicros c v :=
  not_mem_sendMicros c v .command w

theorem not_mem_datMicros (c : Config) (v : Byte) (w : FieldWrite) : Micro.write w ∉ datMicros c v :=
  not_mem_sendMicros c v .data w

/-- An expansion writes only what its instruction may write. -/
theorem mayWrite_of_mem {c : Config} {i : Instr} {s : State} {p : Program} {w : FieldWrite}
    (h : programOf c i s = some p) (hw : .write w ∈ p) : mayWrite i w = true := by
  cases i
  case construct a cl r =>
    cases h
    simp only [constructMicros, List.mem_cons, Micro.write.injEq, List.not_mem_nil, or_false] at hw
    rcases hw with rfl | rfl | rfl | rfl | rfl | rfl <;> rfl
  case begin =>
    simp only [programOf, beginProgram] at h
    split at h
    · obtain ⟨rfl, -, -⟩ := onBus_eq_some h
      simp only [beginMicros, List.mem_append, List.mem_cons, Micro.write.injEq, List.not_mem_nil, or_false,
        not_mem_w4Micros, not_mem_cmdMicros, reduceCtorEq, false_or] at hw
      rcases hw with (((rfl | rfl | rfl | rfl | rfl) | rfl) | rfl) | rfl <;> rfl
    · cases h
  case backlight on =>
    obtain ⟨rfl, -, -⟩ := onBus_eq_some h
    simp only [backlightMicros, List.mem_cons, Micro.write.injEq, List.not_mem_nil, or_false, reduceCtorEq] at hw
    subst hw; rfl
  case printNull =>
    cases h
    simp at hw
  case display on =>
    simp only [programOf, displayProgram, controlToggleProgram] at h
    split at h
    · obtain ⟨rfl, -, -⟩ := onBus_eq_some h
      simp only [controlToggleMicros, List.mem_cons, Micro.write.injEq, not_mem_cmdMicros, or_false] at hw
      subst hw; rfl
    · cases h
  case cursor on =>
    simp only [programOf, cursorProgram, controlToggleProgram] at h
    split at h
    · obtain ⟨rfl, -, -⟩ := onBus_eq_some h
      simp only [controlToggleMicros, List.mem_cons, Micro.write.injEq, not_mem_cmdMicros, or_false] at hw
      subst hw; rfl
    · cases h
  case blink on =>
    simp only [programOf, blinkProgram, controlToggleProgram] at h
    split at h
    · obtain ⟨rfl, -, -⟩ := onBus_eq_some h
      simp only [controlToggleMicros, List.mem_cons, Micro.write.injEq, not_mem_cmdMicros, or_false] at hw
      subst hw; rfl
    · cases h
  case textDir on =>
    simp only [programOf, textDirProgram, entryToggleProgram] at h
    split at h
    · obtain ⟨rfl, -, -⟩ := onBus_eq_some h
      simp only [entryToggleMicros, List.mem_cons, Micro.write.injEq, not_mem_cmdMicros, or_false] at hw
      subst hw; rfl
    · cases h
  case autoscroll on =>
    simp only [programOf, autoscrollProgram, entryToggleProgram] at h
    split at h
    · obtain ⟨rfl, -, -⟩ := onBus_eq_some h
      simp only [entryToggleMicros, List.mem_cons, Micro.write.injEq, not_mem_cmdMicros, or_false] at hw
      subst hw; rfl
    · cases h
  case setCursor col row =>
    simp only [programOf, setCursorProgram] at h
    split at h
    · split at h
      · obtain ⟨rfl, -, -⟩ := onBus_eq_some h
        exact absurd hw (not_mem_cmdMicros _ _ _)
      · cases h
    · cases h
  all_goals
    obtain ⟨rfl, -, -⟩ := onBus_eq_some h
    revert hw
    simp [clearMicros, homeMicros, createCharMicros, printMicros, countedDatMicros, not_mem_w4Micros,
      not_mem_sendMicros, not_mem_cmdMicros, not_mem_datMicros]

/-- An operation of the trace-only kind writes no field. -/
theorem mayWrite_of_writesTraceOnly {i : Instr} (h : writesTraceOnly i = true) (w : FieldWrite) :
    mayWrite i w = false := by
  cases i <;> first | rfl | cases h

/-! ## One step of an expansion -/

/-- `t` is `s` after some events, all of its transactions to the device of `s`, and writes of fields. -/
structure Grows (s t : State) : Prop where
  events : ∃ es, t.trace = s.trace ++ es ∧ ∀ a b, Event.txn a b ∈ es → s.i2cAddress = some a
  address : t.i2cAddress = s.i2cAddress
  inbox : t.inbox = s.inbox
  refused : t.refused = s.refused
  lastRefusal : t.lastRefusal = s.lastRefusal
  responses : t.responses = s.responses

theorem Grows.refl (s : State) : Grows s s := ⟨⟨[], by simp⟩, rfl, rfl, rfl, rfl, rfl⟩

theorem Grows.trans {s t u : State} (h : Grows s t) (g : Grows t u) : Grows s u := by
  obtain ⟨es, he, hd⟩ := h.events
  obtain ⟨fs, hf, hg⟩ := g.events
  refine ⟨⟨es ++ fs, by simp [hf, he], fun a b hm => ?_⟩, g.address.trans h.address, g.inbox.trans h.inbox,
    g.refused.trans h.refused, g.lastRefusal.trans h.lastRefusal, g.responses.trans h.responses⟩
  rw [List.mem_append] at hm
  rcases hm with hm | hm
  · exact hd a b hm
  · exact h.address ▸ hg a b hm

/-- A write of any field but the address. -/
theorem Grows.write {s : State} {w : FieldWrite} (h : ∀ b, w ≠ .i2cAddress b) : Grows s (w.apply s) := by
  cases w
  case i2cAddress b => exact absurd rfl (h b)
  all_goals exact ⟨⟨[], by simp [FieldWrite.apply]⟩, rfl, rfl, rfl, rfl, rfl⟩

/-- Every step of an expansion grows the state so, but a write of the address. -/
theorem Grows.run {c : Config} {m : Micro} {s : State} (h : ∀ b, m ≠ .write (.i2cAddress b)) :
    Grows s (m.run c s) := by
  cases m with
  | openChannel => exact ⟨⟨[.openChannel], by simp [Micro.run, emit]⟩, rfl, rfl, rfl, rfl, rfl⟩
  | xwr d =>
    simp only [Micro.run, transmit]
    split
    · next a on ha hb =>
      exact ⟨⟨[.txn a (d ||| backlightMask c on)], by simp [memWrite, emit, ha]⟩, rfl, rfl, rfl, rfl, rfl⟩
    · exact .refl s
  | hold hd => exact ⟨⟨[.delay hd.min hd.use], by simp [Micro.run, delay, emit]⟩, rfl, rfl, rfl, rfl, rfl⟩
  | write w => exact .write fun b hb => h b (by rw [hb])
  | startCount => exact ⟨⟨[], by simp [Micro.run, setCount]⟩, rfl, rfl, rfl, rfl, rfl⟩
  | tally b => exact ⟨⟨[], by simp [Micro.run, setCount]⟩, rfl, rfl, rfl, rfl, rfl⟩

theorem Grows.drain {c : Config} {p : Program} {s : State} (h : ∀ b, Micro.write (.i2cAddress b) ∉ p) :
    Grows s (drain c p s) :=
  drain_induct (Grows s) (fun _ hm _ ht => ht.trans (.run fun b hb => h b (hb ▸ hm))) (.refl s)

/-- A step that writes no field leaves all fields and the phase. -/
theorem run_keeps {c : Config} {m : Micro} {s : State} (h : ∀ w, m ≠ .write w) :
    SameDevice s (m.run c s) ∧ (m.run c s).phase = s.phase := by
  cases m with
  | xwr d =>
    simp only [Micro.run, transmit]
    split <;> simp [SameDevice, memWrite, emit]
  | write w => exact absurd rfl (h w)
  | openChannel => simp [SameDevice, Micro.run, emit]
  | hold hd => simp [SameDevice, Micro.run, delay, emit]
  | startCount => simp [SameDevice, Micro.run, setCount]
  | tally b => simp [SameDevice, Micro.run, setCount]

/-! ## The events of an expansion -/

theorem stops_standard (m : Micro) (s : State) : m.stops standard s = false := by
  cases m <;> rfl

/-- Under the default configuration, an expansion that writes neither the address nor the backlight flag emits the
events of its steps, in order. -/
theorem drain_trace {p : Program} {s : State} {addr : Byte} {on : Bool}
    (hw : ∀ w, .write w ∈ p → (∀ b, w ≠ .i2cAddress b) ∧ ∀ b, w ≠ .backlightFlag b)
    (ha : s.i2cAddress = some addr) (hb : s.backlightFlag = some on) :
    (drain standard p s).trace = s.trace ++ p.flatMap (busEvent standard addr on) := by
  induction p generalizing s with
  | nil => simp
  | cons m p ih =>
    have hrest : ∀ w, .write w ∈ p → (∀ b, w ≠ .i2cAddress b) ∧ ∀ b, w ≠ .backlightFlag b :=
      fun w hm => hw w (List.mem_cons_of_mem _ hm)
    rw [drain_cons, stops_standard]
    simp only [Bool.false_eq_true, if_false, List.flatMap_cons]
    cases m with
    | write w =>
      obtain ⟨h1, h2⟩ := hw w (by simp)
      cases w
      case i2cAddress b => exact absurd rfl (h1 b)
      case backlightFlag b => exact absurd rfl (h2 b)
      all_goals
        rw [Micro.run, ih hrest (by simpa [FieldWrite.apply] using ha) (by simpa [FieldWrite.apply] using hb)]
        simp [FieldWrite.apply, busEvent]
    | startCount => rw [Micro.run, ih hrest (by simpa using ha) (by simpa using hb)]; simp [busEvent]
    | tally b => rw [Micro.run, ih hrest (by simpa using ha) (by simpa using hb)]; simp [busEvent]
    | openChannel =>
      rw [run_of_isBus rfl ha hb, ih hrest (by simpa using ha) (by simpa using hb)]; simp
    | xwr d => rw [run_of_isBus rfl ha hb, ih hrest (by simpa using ha) (by simpa using hb)]; simp
    | hold h => rw [run_of_isBus rfl ha hb, ih hrest (by simpa using ha) (by simpa using hb)]; simp

/-- The field writes of an expansion, without its events. -/
def applyWrites : Program → State → State
  | [], s => s
  | .write w :: p, s => applyWrites p (w.apply s)
  | .openChannel :: p, s => applyWrites p s
  | .xwr _ :: p, s => applyWrites p s
  | .hold _ :: p, s => applyWrites p s
  | .startCount :: p, s => applyWrites p s
  | .tally _ :: p, s => applyWrites p s

@[simp] theorem applyWrites_nil (s : State) : applyWrites [] s = s := rfl
@[simp] theorem applyWrites_write (w : FieldWrite) (p : Program) (s : State) :
    applyWrites (.write w :: p) s = applyWrites p (w.apply s) := rfl
@[simp] theorem applyWrites_hold (h : Hold) (p : Program) (s : State) :
    applyWrites (.hold h :: p) s = applyWrites p s := rfl
@[simp] theorem applyWrites_xwr (d : Byte) (p : Program) (s : State) :
    applyWrites (.xwr d :: p) s = applyWrites p s := rfl
@[simp] theorem applyWrites_open (p : Program) (s : State) :
    applyWrites (.openChannel :: p) s = applyWrites p s := rfl

theorem applyWrites_append (p q : Program) (s : State) :
    applyWrites (p ++ q) s = applyWrites q (applyWrites p s) := by
  induction p generalizing s with
  | nil => rfl
  | cons m p ih => cases m <;> exact ih _

@[simp] theorem applyWrites_w4 (c : Config) (v : Byte) (q : Program) (s : State) :
    applyWrites (w4Micros c v ++ q) s = applyWrites q s := rfl
@[simp] theorem applyWrites_cmd (c : Config) (v : Byte) (q : Program) (s : State) :
    applyWrites (cmdMicros c v ++ q) s = applyWrites q s := rfl

theorem apply_emitAll (w : FieldWrite) (es : List Event) (s : State) :
    w.apply (emitAll es s) = emitAll es (w.apply s) := by
  cases w <;> rfl

theorem applyWrites_emitAll (p : Program) (es : List Event) (s : State) :
    applyWrites p (emitAll es s) = emitAll es (applyWrites p s) := by
  induction p generalizing s with
  | nil => rfl
  | cons m p ih =>
    cases m with
    | write w => rw [applyWrites_write, apply_emitAll, ih, applyWrites_write]
    | openChannel => exact ih s
    | xwr d => exact ih s
    | hold h => exact ih s
    | startCount => exact ih s
    | tally b => exact ih s

/-- An expansion that counts nothing and writes neither the address nor the backlight flag: its events, and its
writes. -/
theorem drain_writes {p : Program} {s : State} {addr : Byte} {on : Bool}
    (hp : ∀ m ∈ p, m.isBus = true ∨ ∃ w, m = .write w ∧ (∀ b, w ≠ .i2cAddress b) ∧ ∀ b, w ≠ .backlightFlag b)
    (ha : s.i2cAddress = some addr) (hb : s.backlightFlag = some on) :
    drain standard p s = emitAll (p.flatMap (busEvent standard addr on)) (applyWrites p s) := by
  induction p generalizing s with
  | nil => simp
  | cons m p ih =>
    have hrest := fun m hm => hp m (List.mem_cons_of_mem _ hm)
    rw [drain_cons, stops_standard]
    simp only [Bool.false_eq_true, if_false, List.flatMap_cons]
    rcases hp m (by simp) with hm | ⟨w, rfl, h1, h2⟩
    · rw [run_of_isBus hm ha hb, ih hrest (by simpa using ha) (by simpa using hb), applyWrites_emitAll, emitAll_emitAll]
      cases m with
      | write w => cases hm
      | startCount => cases hm
      | tally b => cases hm
      | openChannel => rfl
      | xwr d => rfl
      | hold h => rfl
    · have ha' : (w.apply s).i2cAddress = some addr := by
        cases w
        case i2cAddress b => exact absurd rfl (h1 b)
        all_goals exact ha
      have hb' : (w.apply s).backlightFlag = some on := by
        cases w
        case backlightFlag b => exact absurd rfl (h2 b)
        all_goals exact hb
      rw [Micro.run, ih hrest ha' hb', applyWrites_write]
      simp [busEvent]

/-! ## The whole operation -/

theorem SameDevice.refl (s : State) : SameDevice s s := ⟨rfl, rfl, rfl, rfl, rfl, rfl, rfl, rfl, rfl⟩

theorem SameDevice.trans {s t u : State} (h : SameDevice s t) (g : SameDevice t u) : SameDevice s u := by
  obtain ⟨h1, h2, h3, h4, h5, h6, h7, h8, h9⟩ := h
  obtain ⟨g1, g2, g3, g4, g5, g6, g7, g8, g9⟩ := g
  exact ⟨g1.trans h1, g2.trans h2, g3.trans h3, g4.trans h4, g5.trans h5, g6.trans h6, g7.trans h7, g8.trans h8,
    g9.trans h9⟩

/-- What a refusal, acceptance, completion and every step the instruction can take keep, the instruction keeps. -/
theorem exec_invariant {i : Instr} {s t : State} (P : State → Prop) (h : exec i s = .next t) (hs : P s)
    (href : ∀ r, P s → P (refuse r s)) (hacc : P s → P (accept s)) (hfin : ∀ u, P u → P (finish u))
    (hrun : ∀ (m : Micro) (u : State), (∀ w, m = .write w → mayWrite i w = true) → P u → P (m.run standard u)) :
    P t := by
  obtain ⟨r, rfl⟩ | ⟨-, p, hp, rfl⟩ := exec_cases h
  · exact href r hs
  · exact hfin _ (drain_induct P
      (fun m hm u hu => hrun m u (fun w hw => mayWrite_of_mem hp (hw ▸ hm)) hu) (hacc hs))

/-- Events that only go to the device leave every other port. -/
theorem PortsSameBut.of_events {s t : State} {es : List Event} {d : Option Byte} (ht : t.trace = s.trace ++ es)
    (he : ∀ a b, Event.txn a b ∈ es → d = some a) : PortsSameBut d s t := by
  intro a ha
  rw [ht]
  exact portAt_append_of_not_mem _ _ _ fun b hm => ha (he a b hm)

/-- An instruction but `CONSTRUCT` that answers a state: all transactions go to the device, nothing is taken from the
inbox, and the address stays. -/
theorem exec_events {i : Instr} {s t : State} (hi : ∀ a c r, i ≠ .construct a c r) (h : exec i s = .next t) :
    ∃ es, t.trace = s.trace ++ es ∧ (∀ a b, Event.txn a b ∈ es → s.i2cAddress = some a)
      ∧ t.i2cAddress = s.i2cAddress ∧ t.inbox = s.inbox := by
  obtain ⟨r, rfl⟩ | ⟨-, p, hp, rfl⟩ := exec_cases h
  · exact ⟨[], by simp [refuse]⟩
  · have g : Grows (accept s) (drain standard p (accept s)) := Grows.drain fun b hm => by
      have := mayWrite_of_mem hp hm
      cases i <;> first | exact hi _ _ _ rfl | cases this
    obtain ⟨es, he, hd⟩ := g.events
    exact ⟨es, by simpa [perform, finish, accept] using he, by simpa [accept] using hd,
      by simpa [perform, finish, accept] using g.address, by simpa [perform, finish, accept] using g.inbox⟩

/-- `CONSTRUCT` emits nothing and takes nothing from the inbox. -/
theorem exec_construct_trace {a c r : Byte} {s t : State} (h : exec (.construct a c r) s = .next t) :
    t.trace = s.trace ∧ t.inbox = s.inbox := by
  obtain ⟨r', rfl⟩ | ⟨-, p, hp, rfl⟩ := exec_cases h
  · exact ⟨rfl, rfl⟩
  · cases hp
    exact ⟨rfl, rfl⟩

/-- Every instruction only appends to the trace, what it appends goes to the device, and it leaves the inbox. -/
theorem exec_appends {i : Instr} {s t : State} (h : exec i s = .next t) :
    ∃ es, t.trace = s.trace ++ es ∧ (∀ a b, Event.txn a b ∈ es → s.i2cAddress = some a) ∧ t.inbox = s.inbox := by
  by_cases hi : ∀ a c r, i ≠ .construct a c r
  · obtain ⟨es, h1, h2, -, h3⟩ := exec_events hi h
    exact ⟨es, h1, h2, h3⟩
  · simp only [not_forall, not_not] at hi
    obtain ⟨a, c, r, rfl⟩ := hi
    obtain ⟨h1, h2⟩ := exec_construct_trace h
    exact ⟨[], by simpa using h1, by simp, h2⟩

end Sys2Proof.Machine
end

