-- ==== Sys2Proof/Laws/Composed.lean ====
section
/-! SUPPORT. The shape of what the operations of tiers 2 and 3 emit: whole enable pulses of composed bytes, raw
zero-data bytes, holds, and the opening of the channel. -/

namespace Sys2Proof.Machine

/-- The traces of composed operations to one device with one level of the backlight. -/
inductive Composed (addr : Byte) (on : Bool) : List Event → Prop where
  | nil : Composed addr on []
  | half (n : Nibble) (rs : Bool) {es : List Event} (h : Composed addr on es) :
      Composed addr on (halfFrame addr n rs on ++ es)
  | raw (m : Option Nat) (u : Nat) {es : List Event} (h : Composed addr on es) :
      Composed addr on (.txn addr (blBit on) :: .delay m u :: es)
  | channel {es : List Event} (h : Composed addr on es) : Composed addr on (.openChannel :: es)
  | hold (m : Option Nat) (u : Nat) {es : List Event} (h : Composed addr on es) :
      Composed addr on (.delay m u :: es)

namespace Composed
variable {addr : Byte} {on : Bool} {es fs : List Event}

theorem append (h : Composed addr on es) (g : Composed addr on fs) : Composed addr on (es ++ fs) := by
  induction h with
  | nil => exact g
  | half n rs _ ih => rw [List.append_assoc]; exact ih.half n rs
  | raw m u _ ih => exact ih.raw m u
  | channel _ ih => exact ih.channel
  | hold m u _ ih => exact ih.hold m u

theorem nibble (n : Nibble) (rs : Bool) : Composed addr on (halfFrame addr n rs on) := by
  simpa using (Composed.nil (addr := addr) (on := on)).half n rs

theorem byte (v : Byte) (rs : Bool) : Composed addr on (byteFrame addr v rs on) :=
  (nibble _ rs).append (nibble _ rs)

theorem delay (m : Option Nat) (u : Nat) : Composed addr on [.delay m u] :=
  .hold m u .nil

theorem bytes (vs : List Byte) (rs : Bool) : Composed addr on (vs.flatMap fun v => byteFrame addr v rs on) := by
  induction vs with
  | nil => exact .nil
  | cons v vs ih => exact (byte v rs).append ih

/-- R174 of a composed trace. -/
theorem wellPulsed (h : Composed addr on es) : wellPulsed es = true := by
  induction h with
  | nil => rfl
  | half n rs _ ih =>
    simp only [halfFrame, List.cons_append, List.nil_append, Machine.wellPulsed, ih, Bool.and_true]
    cases rs <;> cases on <;> simp <;> revert n <;> decide
  | raw m u _ ih => cases on <;> simpa [Machine.wellPulsed, blBit] using ih
  | channel _ ih => simpa [Machine.wellPulsed] using ih
  | hold m u _ ih => simpa [Machine.wellPulsed] using ih

/-- Every byte of a composed trace goes to the device, with read/write low and the backlight's level in bit 3. -/
theorem txn (h : Composed addr on es) {a b : Byte} (hm : Event.txn a b ∈ es) :
    a = addr ∧ b &&& 0x02 = 0 ∧ b.getLsbD 3 = on := by
  have hx : ∀ (n : Nibble) (rs en : Bool), xbyteOf n on en false rs &&& 0x02 = 0
      ∧ (xbyteOf n on en false rs).getLsbD 3 = on := by
    cases on <;> decide
  have hbl : blBit on &&& 0x02 = 0 ∧ (blBit on).getLsbD 3 = on := by cases on <;> decide
  induction h with
  | nil => cases hm
  | half n rs _ ih =>
    rw [List.mem_append] at hm
    rcases hm with hm | hm
    · simp only [halfFrame, List.mem_cons, Event.txn.injEq, reduceCtorEq, List.not_mem_nil, or_false, false_or] at hm
      rcases hm with ⟨rfl, rfl⟩ | ⟨rfl, rfl⟩ | ⟨rfl, rfl⟩ <;> exact ⟨rfl, hx n rs _⟩
    · exact ih hm
  | raw m u _ ih =>
    simp only [List.mem_cons, Event.txn.injEq, reduceCtorEq, false_or] at hm
    rcases hm with ⟨rfl, rfl⟩ | hm
    · exact ⟨rfl, hbl⟩
    · exact ih hm
  | channel _ ih => exact ih (by simpa using hm)
  | hold m u _ ih => exact ih (by simpa using hm)

end Composed

/-- The bring-up is composed. -/
theorem composed_beginEvents (addr fs : Byte) (on : Bool) : Composed addr on (beginEvents addr fs on) := by
  have start : Composed addr on
      [.openChannel, .delay (some 40000000) 50000000, .txn addr (blBit on), .delay none 1000000000] :=
    .channel (.hold _ _ (.raw _ _ .nil))
  exact (((((((((((((start.append (.nibble _ _)).append (.delay _ _)).append (.nibble _ _)).append
    (.delay _ _)).append (.nibble _ _)).append (.delay _ _)).append (.nibble _ _)).append (.byte _ _)).append
    (.byte _ _)).append (.byte _ _)).append (.delay _ _)).append (.byte _ _)).append (.byte _ _)).append
    (.delay _ _)

/-- What the expansion of `BEGIN` emits (R113). -/
theorem begin_events (addr rows cols : Byte) (font on : Bool) :
    (beginMicros standard rows cols font).flatMap (busEvent standard addr on)
      = beginEvents addr (0x20 ||| bringUpFunctionFlags standard rows font) on := by
  have hc : ∀ v, (cmdMicros standard v).flatMap (busEvent standard addr on) = byteFrame addr v false on :=
    fun v => send_events addr v .command on
  have h3 : nibbleFrame addr (raisedNibble 0x3) on = halfFrame addr 0x3 false on := by cases on <;> rfl
  have h2 : nibbleFrame addr (raisedNibble 0x2) on = halfFrame addr 0x2 false on := by cases on <;> rfl
  simp only [beginMicros, List.flatMap_append, hc, w4_events]
  simp only [beginEvents, show standard.initNibble8Bit = 0x3 from rfl, show standard.initNibble4Bit = 0x2 from rfl,
    h3, h2]
  simp only [List.flatMap_cons, List.flatMap_nil, busEvent, List.append_nil, List.nil_append, List.append_assoc,
    List.cons_append, slowHold, backlightMask_standard]
  simp [standard]

/-- What an instruction of tiers 2 and 3 but `BACKLIGHT` leaves: nothing emitted, or a composed trace with the backlight
as the flag holds it. -/
theorem exec_composed {i : Instr} {s t : State} (hi : composes i = true) (hbl : ∀ b, i ≠ .backlight b)
    (h : exec i s = .next t) :
    ∃ es, t.trace = s.trace ++ es ∧ (es = [] ∨ ∃ addr on, s.i2cAddress = some addr ∧ s.backlightFlag = some on
      ∧ t.backlightFlag = some on ∧ Composed addr on es) := by
  by_cases hcon : ∃ a c r, i = .construct a c r
  · obtain ⟨a, c, r, rfl⟩ := hcon
    exact ⟨[], by simpa using (exec_construct_trace h).1, .inl rfl⟩
  have hbk : t.backlightFlag = s.backlightFlag := by
    refine exec_invariant (fun u => u.backlightFlag = s.backlightFlag) h rfl (fun _ h => h) (fun h => h)
      (fun _ h => h) fun m u hm hu => ?_
    cases m with
    | write w =>
      cases w
      case backlightFlag b =>
        have := hm _ rfl
        cases i <;> first | exact absurd rfl (hbl _) | exact absurd ⟨_, _, _, rfl⟩ hcon | cases this
      all_goals exact hu
    | xwr d => simp only [Micro.run, transmit]; split <;> exact hu
    | openChannel => exact hu
    | hold => exact hu
    | startCount => exact hu
    | tally => exact hu
  obtain ⟨r, rfl⟩ | ⟨-, p, hp, rfl⟩ := exec_cases h
  · exact ⟨[], by simp [refuse], .inl rfl⟩
  have hw : ∀ w, .write w ∈ p → (∀ b, w ≠ .i2cAddress b) ∧ ∀ b, w ≠ .backlightFlag b := by
    refine fun w hm => ⟨?_, ?_⟩ <;> rintro b rfl <;> have := mayWrite_of_mem hp hm <;> cases i <;>
      first | exact absurd rfl (hbl _) | exact absurd ⟨_, _, _, rfl⟩ hcon | cases this
  have hc : ∀ {addr on} v, (cmdMicros standard v).flatMap (busEvent standard addr on) = byteFrame addr v false on :=
    fun v => send_events _ v .command _
  have hd : ∀ {addr on} v, (datMicros standard v).flatMap (busEvent standard addr on) = byteFrame addr v true on :=
    fun v => send_events _ v .data _
  -- a bus expansion whose events are composed
  have main : ∀ {q : Program}, s.onBus q = some p →
      (∀ addr on, Composed addr on (q.flatMap (busEvent standard addr on))) →
      ∃ es, (perform standard p s).trace = s.trace ++ es ∧ (es = [] ∨ ∃ addr on, s.i2cAddress = some addr
        ∧ s.backlightFlag = some on ∧ (perform standard p s).backlightFlag = some on ∧ Composed addr on es) := by
    intro q hq hcomp
    obtain ⟨rfl, ⟨a, ha⟩, b, hb⟩ := onBus_eq_some hq
    refine ⟨_, drain_trace (s := accept s) hw ha hb, .inr ⟨a, b, ha, hb, hbk.trans hb, hcomp a b⟩⟩
  have cmd : ∀ v {addr on}, Composed addr on ((cmdMicros standard v).flatMap (busEvent standard addr on)) :=
    fun v => by intros; rw [hc]; exact .byte _ _
  cases i
  case xwr => cases hi
  case w4 => cases hi
  case xbyte => cases hi
  case construct => exact absurd ⟨_, _, _, rfl⟩ hcon
  case backlight => exact absurd rfl (hbl _)
  case printNull =>
    cases hp
    exact ⟨[], by simp [perform, finish, drain_cons, stops_standard, Micro.run], .inl rfl⟩
  case begin =>
    simp only [programOf, beginProgram] at hp
    split at hp
    · refine main hp fun addr on => ?_
      rw [begin_events]
      exact composed_beginEvents _ _ _
    · cases hp
  case display =>
    simp only [programOf, displayProgram, controlToggleProgram] at hp
    split at hp
    · exact main hp fun addr on => cmd _
    · cases hp
  case cursor =>
    simp only [programOf, cursorProgram, controlToggleProgram] at hp
    split at hp
    · exact main hp fun addr on => cmd _
    · cases hp
  case blink =>
    simp only [programOf, blinkProgram, controlToggleProgram] at hp
    split at hp
    · exact main hp fun addr on => cmd _
    · cases hp
  case textDir =>
    simp only [programOf, textDirProgram, entryToggleProgram] at hp
    split at hp
    · exact main hp fun addr on => cmd _
    · cases hp
  case autoscroll =>
    simp only [programOf, autoscrollProgram, entryToggleProgram] at hp
    split at hp
    · exact main hp fun addr on => cmd _
    · cases hp
  case setCursor =>
    simp only [programOf, setCursorProgram] at hp
    split at hp
    · split at hp
      · exact main hp fun addr on => cmd _
      · cases hp
    · cases hp
  case send v mode =>
    refine main hp fun addr on => ?_
    rw [send_events]; exact .byte _ _
  case dat v =>
    refine main hp fun addr on => ?_
    simp only [List.flatMap_cons, countedDatMicros, List.flatMap_append, hd, busEvent, List.flatMap_nil,
      List.append_nil, List.nil_append]
    exact .byte _ _
  case clear =>
    refine main hp fun addr on => ?_
    rw [clearMicros, List.flatMap_append]
    exact (cmd _).append (.delay _ _)
  case home =>
    refine main hp fun addr on => ?_
    rw [homeMicros, List.flatMap_append]
    exact (cmd _).append (.delay _ _)
  case createChar slot m =>
    refine main hp fun addr on => ?_
    rw [createCharMicros, List.flatMap_append, List.flatMap_assoc]
    simp only [hd]
    exact (cmd _).append (.bytes _ _)
  case print text =>
    refine main hp fun addr on => ?_
    simp only [printMicros, List.flatMap_cons, List.flatMap_assoc, countedDatMicros, List.flatMap_append, hd,
      busEvent, List.flatMap_nil, List.append_nil, List.nil_append]
    exact .bytes _ _
  all_goals exact main hp fun addr on => cmd _

end Sys2Proof.Machine
end

