-- ==== Sys2Proof/Laws/ConfiguredDecode.lean ====
section
/-! SUPPORT. Decoding under a configuration: at the defaults it is `decode`; a command byte that decodes is the byte of
what it decodes to; an expander byte is rebuilt under masks that 00_scope.md R5 allows. -/

namespace Sys2Proof.Machine

/-! ## At the defaults -/

theorem decodeCommandWith_standard : ∀ b : Byte, decodeCommandWith standard b = decodeCommand b := by
  decide

theorem decodeExpanderWith_standard : ∀ b : Byte, decodeExpanderWith standard b = decodeExpander b := by
  decide

theorem decodeWith_standard (p : Presented) : decodeWith standard p = decode p := by
  cases p with
  | request bytes => rfl
  | command b => simp only [decodeWith, decode, decodeCommandWith_standard]
  | expander b => simp only [decodeWith, decode, decodeExpanderWith_standard]

/-! ## Under any configuration -/

theorem byte_or_right_comm (x y z : Byte) : x ||| y ||| z = x ||| z ||| y := by
  rw [BitVec.or_assoc, BitVec.or_comm y, BitVec.or_assoc]

/-- A literal ORed with an address field is not changed by reading the field back and ORing it in again. -/
theorem or_low_bits {n : Nat} (x : Byte) (a : BitVec n) :
    x ||| ((x ||| a.setWidth 8).setWidth n).setWidth 8 = x ||| a.setWidth 8 := by
  ext k hk
  by_cases hn : k < n
  · simp [hn, hk]
  · simp [hn, hk, BitVec.getLsbD_of_ge a k (by omega)]

/-- A flag may be replaced by what the byte shows of it. -/
theorem or_flag_hasBits {b x m : Byte} {on : Bool} (h : x ||| flag m on = b) :
    x ||| flag m (hasBits m b) = b := by
  cases on with
  | true =>
    have : hasBits m b = true := by
      subst h
      simp only [hasBits, flag, if_true, decide_eq_true_eq]
      ext k hk
      simp
      tauto
    rw [this, h]
  | false =>
    obtain rfl : x = b := by simpa [flag] using h
    by_cases hm : hasBits m x = true
    · rw [hm]
      simp only [hasBits, decide_eq_true_eq] at hm
      simp only [flag, if_true]
      rw [← hm]
      ext k hk
      simp
      tauto
    · simp [hm, flag]

/-- A command byte that decodes is the command byte of what it decodes to. -/
theorem controllerCommand_of_decode {c : Config} {b : Byte} {i : Instr} (h : decodeCommandWith c b = .ok i) :
    controllerCommand c i = some b := by
  unfold decodeCommandWith at h
  split at h
  · next j hj =>
    cases h
    simpa using List.find?_some hj
  · cases h

/-- A command byte that some instruction has decodes: the row's candidate with every flag that the byte shows has the
same byte. -/
theorem decodeCommandWith_isOk {c : Config} {b : Byte} {i : Instr} (h : controllerCommand c i = some b) :
    ∃ j, decodeCommandWith c b = .ok j := by
  suffices hs : ∃ j ∈ commandCandidates c b, controllerCommand c j = some b by
    obtain ⟨j, hm, hj⟩ := hs
    unfold decodeCommandWith
    split
    · exact ⟨_, rfl⟩
    · next hn => exact absurd (by simpa using hj) (List.find?_eq_none.mp hn j hm)
  cases i <;> simp only [controllerCommand, Option.some.injEq, reduceCtorEq] at h
  case clearDisplay => exact ⟨.clearDisplay, by simp [commandCandidates], by simp [controllerCommand, h]⟩
  case returnHome => exact ⟨.returnHome, by simp [commandCandidates], by simp [controllerCommand, h]⟩
  case entryModeSet i s =>
    refine ⟨.entryModeSet (hasBits c.entryLeft b) (hasBits c.entryShiftIncrement b),
      by simp [commandCandidates], ?_⟩
    have h1 := or_flag_hasBits h
    rw [byte_or_right_comm] at h1
    have h2 := or_flag_hasBits h1
    rw [byte_or_right_comm] at h2
    simp only [controllerCommand, entryModeCommand, h2]
  case displayControl d u k =>
    refine ⟨.displayControl (hasBits c.displayOn b) (hasBits c.cursorOn b) (hasBits c.blinkOn b),
      by simp [commandCandidates], ?_⟩
    have h1 := or_flag_hasBits h
    rw [byte_or_right_comm] at h1
    have h2 := or_flag_hasBits h1
    rw [byte_or_right_comm _ _ (flag c.cursorOn _), byte_or_right_comm _ (flag c.displayOn _)] at h2
    rw [byte_or_right_comm] at h2
    have h3 := or_flag_hasBits h2
    rw [byte_or_right_comm _ _ (flag c.displayOn _), byte_or_right_comm _ (flag c.cursorOn _)] at h3
    simp only [controllerCommand, displayControlCommand, h3]
  case cursorShift m r =>
    refine ⟨.cursorShift (hasBits c.displayMove b) r, by cases r <;> simp [commandCandidates], ?_⟩
    simp only [cursorShiftCommand] at h
    rw [byte_or_right_comm] at h
    have h1 := or_flag_hasBits h
    rw [byte_or_right_comm] at h1
    simp only [controllerCommand, cursorShiftCommand, h1]
  case functionSet w n f =>
    exact ⟨.functionSet w n f, by cases w <;> cases n <;> cases f <;> simp [commandCandidates],
      by simp [controllerCommand, h]⟩
  case setCgramAddr a =>
    exact ⟨.setCgramAddr (b.setWidth 6), by simp [commandCandidates],
      by subst h; simp only [controllerCommand, or_low_bits]⟩
  case setDdramAddr a =>
    exact ⟨.setDdramAddr (b.setWidth 7), by simp [commandCandidates],
      by subst h; simp only [controllerCommand, or_low_bits]⟩

/-- Under masks that R5 allows, an expander byte is the byte of the lines it decodes to. -/
theorem expanderByte_of_decode {c : Config} (h : c.masksWf = true) {b : Byte} {d : Nibble} {l e w s : Bool}
    (hd : decodeExpanderWith c b = .xbyte d l e w s) : expanderByte c d l e w s = b := by
  simp only [decodeExpanderWith, Instr.xbyte.injEq] at hd
  obtain ⟨rfl, rfl, rfl, rfl, rfl⟩ := hd
  simp only [Cfg.masksWf, lowSingleBit, Bool.and_eq_true, Bool.or_eq_true, decide_eq_true_eq] at h
  obtain ⟨⟨⟨⟨⟨⟨⟨⟨⟨⟨h0, h1⟩, h2⟩, h3⟩, h4⟩, h5⟩, h6⟩, h7⟩, h8⟩, h9⟩, h10⟩ := h
  simp only [expanderByte, h0]
  generalize c.rsMask = rs at *
  generalize c.rwMask = rw at *
  generalize c.enMask = en at *
  generalize c.blMask = bl at *
  rcases h1 with ((rfl | rfl) | rfl) | rfl <;> rcases h2 with ((rfl | rfl) | rfl) | rfl <;>
    first | exact absurd h5 (by decide) | skip
  all_goals rcases h3 with ((rfl | rfl) | rfl) | rfl <;>
    first | exact absurd h6 (by decide) | exact absurd h8 (by decide) | skip
  all_goals rcases h4 with ((rfl | rfl) | rfl) | rfl <;>
    first | exact absurd h7 (by decide) | exact absurd h9 (by decide) | exact absurd h10 (by decide) | skip
  all_goals clear h5 h6 h7 h8 h9 h10; revert b; decide

end Sys2Proof.Machine
end

