-- ==== Sys2Proof/Laws/Decode.lean ====
section
/-! SUPPORT. The operand decoders against their encoders, and what a decoded request consumed. -/

namespace Sys2Proof

@[simp] theorem decodeMode_encodeMode (m : Mode) : decodeMode (encodeMode m) = .ok m := by
  cases m <;> rfl

@[simp] theorem decodeBool_encodeBool (b : Bool) : decodeBool (encodeBool b) = .ok b := by
  cases b <;> rfl

@[simp] theorem decodeDirection_encodeDirection (d : Direction) :
    decodeDirection (encodeDirection d) = .ok d := by
  cases d <;> rfl

/-- Only `0x00` and `0x01` are modes (R72). -/
theorem encodeMode_of_decodeMode {b : Byte} {m : Mode} (h : decodeMode b = .ok m) : encodeMode m = b := by
  unfold decodeMode at h
  split at h
  · cases h; simp_all [encodeMode]
  · split at h
    · cases h; simp_all [encodeMode]
    · cases h

/-- Only `0x00` and `0x01` are booleans (R72). -/
theorem encodeBool_of_decodeBool {b : Byte} {f : Bool} (h : decodeBool b = .ok f) : encodeBool f = b := by
  unfold decodeBool at h
  split at h
  · cases h; simp_all [encodeBool]
  · split at h
    · cases h; simp_all [encodeBool]
    · cases h

/-- Only `0x00` and `0x01` are directions (R72). -/
theorem encodeDirection_of_decodeDirection {b : Byte} {d : Direction} (h : decodeDirection b = .ok d) :
    encodeDirection d = b := by
  unfold decodeDirection at h
  split at h
  · cases h; simp_all [encodeDirection]
  · split at h
    · cases h; simp_all [encodeDirection]
    · cases h

/-! ## What each operand shape consumes -/

theorem oneOperand_ok {op : Byte} {k : Byte → Except DecodeError Instr} {bs rest : List Byte} {i : Instr}
    (h : oneOperand op k bs = .ok (i, rest)) : ∃ a, bs = a :: rest ∧ k a = .ok i := by
  match bs with
  | [] => simp [oneOperand] at h
  | a :: bs =>
    simp only [oneOperand] at h
    cases hk : k a <;> simp_all [Except.map]

theorem twoOperands_ok {op : Byte} {k : Byte → Byte → Except DecodeError Instr} {bs rest : List Byte} {i : Instr}
    (h : twoOperands op k bs = .ok (i, rest)) : ∃ a b, bs = a :: b :: rest ∧ k a b = .ok i := by
  match bs with
  | [] | [_] => simp [twoOperands] at h
  | a :: b :: bs =>
    simp only [twoOperands] at h
    cases hk : k a b <;> simp_all [Except.map]

theorem threeOperands_ok {op : Byte} {k : Byte → Byte → Byte → Except DecodeError Instr} {bs rest : List Byte}
    {i : Instr} (h : threeOperands op k bs = .ok (i, rest)) :
    ∃ a b c, bs = a :: b :: c :: rest ∧ k a b c = .ok i := by
  match bs with
  | [] | [_] | [_, _] => simp [threeOperands] at h
  | a :: b :: c :: bs =>
    simp only [threeOperands] at h
    cases hk : k a b c <;> simp_all [Except.map]

theorem glyphOperands_ok {op : Byte} {bs rest : List Byte} {i : Instr} (h : glyphOperands op bs = .ok (i, rest)) :
    ∃ s m, bs = s :: (m.toList ++ rest) ∧ i = .createChar s m := by
  match bs with
  | [] | [_] | [_, _] | [_, _, _] | [_, _, _, _] | [_, _, _, _, _] | [_, _, _, _, _, _]
  | [_, _, _, _, _, _, _] | [_, _, _, _, _, _, _, _] => simp [glyphOperands] at h
  | s :: b0 :: b1 :: b2 :: b3 :: b4 :: b5 :: b6 :: b7 :: bs =>
    simp only [glyphOperands, Except.ok.injEq, Prod.mk.injEq] at h
    exact ⟨s, ⟨b0, b1, b2, b3, b4, b5, b6, b7⟩, by simp [Bitmap.toList, h.2], h.1.symm⟩

theorem textOperand_ok {op : Byte} {bs rest : List Byte} {i : Instr} (h : textOperand op bs = .ok (i, rest)) :
    ∃ text, bs = BitVec.ofNat 8 text.length :: (text ++ rest) ∧ text.length ≤ 255 ∧ i = .print text := by
  match bs with
  | [] => simp [textOperand] at h
  | n :: bs =>
    simp only [textOperand] at h
    split at h
    · cases h
    · simp only [Except.ok.injEq, Prod.mk.injEq] at h
      have hn : (bs.take n.toNat).length = n.toNat := by simp; omega
      refine ⟨bs.take n.toNat, ?_, by omega, h.1.symm⟩
      rw [hn, ← h.2, List.take_append_drop]
      simp

/-- The rows of R64 cover every command byte but `0x00` and those whose fixed low bits are not 0. -/
theorem decodeCommand_zero : decodeCommand 0x00 = .error (.noCommandPattern 0x00) := by decide

end Sys2Proof
end

