-- ==== Sys2Proof/Laws/EventStep.lean ====
section
/-! SUPPORT. The operation in progress, one move at a time: the moves of the event-by-event block add up to the
operation run whole. -/

namespace Sys2Proof.Machine

theorem run_running (c : Config) (m : Micro) (s : State) (r : Program) :
    m.run c { s with running := r } = { m.run c s with running := r } := by
  cases m with
  | xwr d => simp only [Micro.run, transmit]; split <;> rfl
  | write w => cases w <;> rfl
  | openChannel => rfl
  | hold h => rfl
  | startCount => rfl
  | tally b => rfl

theorem stops_running (c : Config) (m : Micro) (s : State) (r : Program) :
    m.stops c { s with running := r } = m.stops c s := by
  cases m <;> rfl

/-- No step of an expansion touches `busy` or the inbox. -/
theorem run_busy_inbox (c : Config) (m : Micro) (s : State) :
    (m.run c s).busy = s.busy ∧ (m.run c s).inbox = s.inbox := by
  cases m with
  | xwr d => simp only [Micro.run, transmit]; split <;> exact ⟨rfl, rfl⟩
  | write w => cases w <;> exact ⟨rfl, rfl⟩
  | openChannel => exact ⟨rfl, rfl⟩
  | hold h => exact ⟨rfl, rfl⟩
  | startCount => exact ⟨rfl, rfl⟩
  | tally b => exact ⟨rfl, rfl⟩

theorem eventStep_busy {s : State} (c : Config) (hb : s.busy = true) (hi : s.inbox = []) :
    eventStep c s = .next (tick c s) := by
  simp [eventStep, fetchWith, fetchBy, hi, hb]

theorem tick_cons (c : Config) (m : Micro) (p : Program) (s : State) :
    tick c { s with running := m :: p }
      = if m.stops c s then { s with running := [] } else { m.run c s with running := p } := by
  rw [← run_running, ← stops_running c m s (m :: p)]; rfl

/-- The moves of a busy block with nothing presented run what is left of its operation and complete it. -/
theorem eventSteps_drain (c : Config) (p : Program) {s : State} (hb : s.busy = true) (hi : s.inbox = []) :
    ∃ n, eventSteps c n { s with running := p } = .next (finish (drain c p s)) := by
  have done : ∀ u : State, u.busy = true → u.inbox = [] →
      eventSteps c 1 { u with running := [] } = .next (finish u) := by
    intro u hb hi
    rw [eventSteps, eventStep_busy (s := { u with running := [] }) c hb hi]
    rfl
  induction p generalizing s with
  | nil => exact ⟨1, done s hb hi⟩
  | cons m p ih =>
    have h1 : ∀ n, eventSteps c (n + 1) { s with running := m :: p }
        = eventSteps c n (if m.stops c s then { s with running := [] } else { m.run c s with running := p }) := by
      intro n
      rw [eventSteps, eventStep_busy (s := { s with running := m :: p }) c hb hi, tick_cons]
    rw [drain_cons]
    by_cases hs : m.stops c s = true
    · refine ⟨2, ?_⟩
      rw [h1, if_pos hs, if_pos hs, done s hb hi]
    · obtain ⟨g1, g2⟩ := run_busy_inbox c m s
      obtain ⟨n, hn⟩ := ih (g1.trans hb) (g2.trans hi)
      refine ⟨n + 1, ?_⟩
      rw [h1, if_neg hs, if_neg hs, hn]

end Sys2Proof.Machine
end

