-- ==== Sys2Proof/Laws/PerInstr.lean ====
section
/-! SUPPORT. Statements about every instruction as syntax, one lemma per constructor. -/

/-- `Length`: the word of a well-formed request has the length that 30_encoding.md R71 gives its opcode, and only
requests have words of the request port. -/
def Sys2Proof.Laws.Length.Statement (i : Sys2Proof.Instr) : Prop :=
  match Sys2Proof.encode i with
  | .request word =>
    i.isRequest = true ∧ (i.wf = true →
      ∃ op rest, word = op :: rest ∧ Sys2Proof.requestLength op (rest.headD 0) = some word.length)
  | .command _ => i.isRequest = false
  | .expander _ => i.isRequest = false

namespace Sys2Proof.Laws.Length

theorem xwr (d : Byte) : Statement (.xwr d) := ⟨rfl, fun _ => ⟨_, _, rfl, rfl⟩⟩
theorem w4 (v : Byte) : Statement (.w4 v) := ⟨rfl, fun _ => ⟨_, _, rfl, rfl⟩⟩
theorem cmd (v : Byte) : Statement (.cmd v) := ⟨rfl, fun _ => ⟨_, _, rfl, rfl⟩⟩
theorem dat (v : Byte) : Statement (.dat v) := ⟨rfl, fun _ => ⟨_, _, rfl, rfl⟩⟩
theorem send (v : Byte) (mode : Mode) : Statement (.send v mode) := ⟨rfl, fun _ => ⟨_, _, rfl, rfl⟩⟩
theorem construct (addr cols rows : Byte) : Statement (.construct addr cols rows) :=
  ⟨rfl, fun _ => ⟨_, _, rfl, rfl⟩⟩
theorem begin : Statement .begin := ⟨rfl, fun _ => ⟨_, _, rfl, rfl⟩⟩
theorem clear : Statement .clear := ⟨rfl, fun _ => ⟨_, _, rfl, rfl⟩⟩
theorem home : Statement .home := ⟨rfl, fun _ => ⟨_, _, rfl, rfl⟩⟩
theorem backlight (on : Bool) : Statement (.backlight on) := ⟨rfl, fun _ => ⟨_, _, rfl, rfl⟩⟩
theorem display (on : Bool) : Statement (.display on) := ⟨rfl, fun _ => ⟨_, _, rfl, rfl⟩⟩
theorem cursor (on : Bool) : Statement (.cursor on) := ⟨rfl, fun _ => ⟨_, _, rfl, rfl⟩⟩
theorem blink (on : Bool) : Statement (.blink on) := ⟨rfl, fun _ => ⟨_, _, rfl, rfl⟩⟩
theorem scroll (dir : Direction) : Statement (.scroll dir) := ⟨rfl, fun _ => ⟨_, _, rfl, rfl⟩⟩
theorem textDir (ltr : Bool) : Statement (.textDir ltr) := ⟨rfl, fun _ => ⟨_, _, rfl, rfl⟩⟩
theorem autoscroll (on : Bool) : Statement (.autoscroll on) := ⟨rfl, fun _ => ⟨_, _, rfl, rfl⟩⟩
theorem createChar (slot : Byte) (bitmap : Bitmap) : Statement (.createChar slot bitmap) :=
  ⟨rfl, fun _ => ⟨_, _, rfl, rfl⟩⟩
theorem setCursor (col row : Byte) : Statement (.setCursor col row) := ⟨rfl, fun _ => ⟨_, _, rfl, rfl⟩⟩

theorem print (text : List Byte) : Statement (.print text) := by
  refine ⟨rfl, fun h => ⟨_, _, rfl, ?_⟩⟩
  have h : text.length ≤ 255 := by simpa [Instr.wf] using h
  have : text.length % 256 = text.length := by omega
  simp [requestLength, this]
  omega

theorem printNull : Statement .printNull := ⟨rfl, fun _ => ⟨_, _, rfl, rfl⟩⟩
theorem clearDisplay : Statement .clearDisplay := rfl
theorem returnHome : Statement .returnHome := rfl
theorem entryModeSet (i s : Bool) : Statement (.entryModeSet i s) := rfl
theorem displayControl (d c b : Bool) : Statement (.displayControl d c b) := rfl
theorem cursorShift (m r : Bool) : Statement (.cursorShift m r) := rfl
theorem functionSet (w n f : Bool) : Statement (.functionSet w n f) := rfl
theorem setCgramAddr (a : BitVec 6) : Statement (.setCgramAddr a) := rfl
theorem setDdramAddr (a : BitVec 7) : Statement (.setDdramAddr a) := rfl
theorem xbyte (data : Nibble) (l e w s : Bool) : Statement (.xbyte data l e w s) := rfl

end Sys2Proof.Laws.Length
end

