-- ==== Sys2Proof/Laws/Step.lean ====
section
/-! SUPPORT. Everything a step from an idle state can do, said once; and the step at the default configuration as the
configured step. -/

namespace Sys2Proof.Machine

/-- An idle block waits, refuses what does not decode, or runs what does, with the inbox moved on. -/
theorem step_cases {s t : State} (hb : s.busy = false) (h : step s = .next t) :
    (s.inbox = [] ∧ t = s)
      ∨ (∃ later, t = refuse .badEncoding { s with inbox := later })
      ∨ ∃ i later, exec i { s with inbox := later } = .next t := by
  unfold step fetch fetchBy at h
  split at h
  · rename_i hf
    revert hf
    cases hi : s.inbox with
    | nil => exact fun _ => .inl ⟨rfl, by simpa using h.symm⟩
    | cons p later => simp only [hb, Bool.false_eq_true, if_false]; cases decode p <;> simp
  · rename_i hf
    revert hf
    cases hi : s.inbox with
    | nil => simp [hb]
    | cons p later => simp only [hb, Bool.false_eq_true, if_false]; cases decode p <;> simp
  · rename_i r s' hf
    revert hf
    cases hi : s.inbox with
    | nil => simp [hb]
    | cons p later =>
      simp only [hb, Bool.false_eq_true, if_false]
      cases decode p with
      | ok x => simp
      | error e =>
        simp only [Fetched.refuse.injEq]
        rintro ⟨rfl, rfl⟩
        exact .inr (.inl ⟨later, by simpa [← hb] using h.symm⟩)
  · rename_i i s' hf
    revert hf
    cases hi : s.inbox with
    | nil => simp [hb]
    | cons p later =>
      simp only [hb, Bool.false_eq_true, if_false]
      cases decode p with
      | ok x =>
        simp only [Fetched.run.injEq]
        rintro ⟨rfl, rfl⟩
        exact .inr (.inr ⟨x.1, presentRest x.2 later, by rw [← h, ← hb]⟩)
      | error e => simp

theorem fetchWith_standard (s : State) : fetchWith standard s = fetch s := by
  rw [fetchWith, fetch, show decodeWith standard = decode from funext decodeWith_standard]

/-- What is proved of `stepWith` for every configuration holds of `step`. -/
theorem step_eq_stepWith (s : State) : step s = stepWith standard s := by
  unfold step stepWith
  rw [fetchWith_standard]
  cases fetch s <;> simp only [exec_eq_execWith]

theorem core_eq_coreWith : core = coreWith standard := by
  simp only [core, coreWith, funext step_eq_stepWith]

end Sys2Proof.Machine
end

