-- ==== Sys2Proof/Tests/Slice0.lean ====
section
/-! SUPPORT. The model's own tests. Expected bytes are the tables of spec/95_test_vectors.md (T1 to T9); decode words
are written out from 30_encoding.md R60, R64, R71, R72. `witness_…` theorems show states and operands that meet the
hypotheses of the statements of Certificates/Slice0/Obligations.lean together. -/

namespace Sys2Proof.Tests
open Sys2Proof Sys2Proof.Machine

/-! ## Small states -/

/-- After `CONSTRUCT 0x27, 16, rows`. -/
def made (rows : Byte) : State :=
  { State.reset with
    i2cAddress := some 0x27, columns := some 16, rows := some rows, charSizeFlag := some false,
    backlightFlag := some true, phase := .constructed }

/-- A block in phase Begun with this geometry and backlight, its trace cut down to the channel's opening. -/
def begun (cols rows : Byte) (on : Bool) : State :=
  { State.reset with
    i2cAddress := some 0x27, columns := some cols, rows := some rows, charSizeFlag := some false,
    backlightFlag := some on, functionFlags := some (functionFlagsAfterBegin rows false),
    controlFlags := some 0x04, entryModeFlags := some 0x02,
    rowOffsets := ⟨some 0x00, some 0x40, some cols, some (0x40 + cols)⟩,
    phase := .begun, trace := [.openChannel] }

/-- 16 x 2, backlight on: the state the examples of 42_display_ops.md assume. -/
def lit : State := begun 16 2 true

/-- The same with the backlight off. -/
def dark : State := begun 16 2 false

/-- What an outcome leaves, where it is a next state. -/
def after (r : Result) : State :=
  match r with
  | .next t => t
  | .fault _ => State.reset
  | .refused _ => State.reset

/-- The bytes an instruction sends from a state. -/
def sent (i : Instr) (s : State) : List Byte :=
  txnBytes ((after (exec i s)).trace.drop s.trace.length)

/-- A state with requests presented. -/
def offered (s : State) (ps : List Presented) : State :=
  { s with inbox := ps }

/-! ## Well-formedness: each check refuses an ill-formed term -/

theorem test_print_of_256_bytes_has_no_word : (Instr.print (List.replicate 256 0x41)).wf = false := by
  simp only [Instr.wf, List.length_replicate]; decide
theorem test_standard_is_wf : standard.wf = true := by decide
theorem test_masks_overlapping_data_refused :
    ({ standard with dataMask := 0xF8 } : Config).masksWf = false := by decide
theorem test_mask_outside_low_nibble_refused :
    ({ standard with rsMask := 0x10 } : Config).masksWf = false
      ∧ ({ standard with rwMask := 0x20 } : Config).masksWf = false
      ∧ ({ standard with enMask := 0x06 } : Config).masksWf = false
      ∧ ({ standard with blMask := 0x00 } : Config).masksWf = false := by decide
theorem test_equal_masks_refused :
    ({ standard with rsMask := 0x02 } : Config).masksWf = false
      ∧ ({ standard with rsMask := 0x04 } : Config).masksWf = false
      ∧ ({ standard with rsMask := 0x08 } : Config).masksWf = false
      ∧ ({ standard with rwMask := 0x04 } : Config).masksWf = false
      ∧ ({ standard with rwMask := 0x08 } : Config).masksWf = false
      ∧ ({ standard with enMask := 0x08 } : Config).masksWf = false := by decide
theorem test_table_sizes_refused :
    ({ standard with nRowOffsets := 2 } : Config).wf = false
      ∧ ({ standard with nCgramSlots := 16 } : Config).wf = false := by decide

/-! ## Decoding: a word of every constructor, from the tables -/

theorem test_decode_core :
    decode (.request [0x00, 0xF7]) = .ok (.xwr 0xF7, [])
      ∧ decode (.request [0x01, 0x30]) = .ok (.w4 0x30, [])
      ∧ decode (.request [0x02, 0xC0]) = .ok (.cmd 0xC0, [])
      ∧ decode (.request [0x03, 0x69]) = .ok (.dat 0x69, [])
      ∧ decode (.request [0x04, 0x41, 0x00]) = .ok (.send 0x41 .command, []) := by decide

theorem test_decode_lifecycle :
    decode (.request [0x10, 0x3F, 0x14, 0x04]) = .ok (.construct 0x3F 0x14 0x04, [])
      ∧ decode (.request [0x11]) = .ok (.begin, []) := by decide

theorem test_decode_toggles :
    decode (.request [0x14, 0x00]) = .ok (.backlight false, [])
      ∧ decode (.request [0x15, 0x01]) = .ok (.display true, [])
      ∧ decode (.request [0x16, 0x01]) = .ok (.cursor true, [])
      ∧ decode (.request [0x17, 0x00]) = .ok (.blink false, [])
      ∧ decode (.request [0x18, 0x00]) = .ok (.scroll .left, [])
      ∧ decode (.request [0x19, 0x01]) = .ok (.textDir true, [])
      ∧ decode (.request [0x1A, 0x01]) = .ok (.autoscroll true, []) := by decide

theorem test_decode_display :
    decode (.request [0x12]) = .ok (.clear, [])
      ∧ decode (.request [0x13]) = .ok (.home, [])
      ∧ decode (.request [0x1B, 0x01, 0x00, 0x0A, 0x1F, 0x1F, 0x0E, 0x04, 0x00, 0x02])
        = .ok (.createChar 0x01 ⟨0x00, 0x0A, 0x1F, 0x1F, 0x0E, 0x04, 0x00, 0x02⟩, [])
      ∧ decode (.request [0x1C, 0x05, 0x07]) = .ok (.setCursor 0x05 0x07, [])
      ∧ decode (.request [0x1D, 0x02, 0x48, 0x69]) = .ok (.print [0x48, 0x69], [])
      ∧ decode (.request [0x1E]) = .ok (.printNull, []) := by decide

theorem test_decode_controller_commands :
    decode (.command 0b00000001) = .ok (.clearDisplay, [])
      ∧ decode (.command 0b00000010) = .ok (.returnHome, [])
      ∧ decode (.command 0b00000110) = .ok (.entryModeSet true false, [])
      ∧ decode (.command 0b00001100) = .ok (.displayControl true false false, [])
      ∧ decode (.command 0b00011100) = .ok (.cursorShift true true, [])
      ∧ decode (.command 0b00101000) = .ok (.functionSet false true false, [])
      ∧ decode (.command 0b01001000) = .ok (.setCgramAddr 0x08, [])
      ∧ decode (.command 0b11000000) = .ok (.setDdramAddr 0x40, []) := by decide

theorem test_decode_expander_byte :
    decode (.expander 0b10011101) = .ok (.xbyte 0x9 true true false true, []) := by decide

/-- T9: unassigned opcodes, refused operands; and command bytes in no row of R64. -/
theorem test_decode_refuses_by_name :
    decode (.request [0x1F]) = .error (.unassignedOpcode 0x1F)
      ∧ decode (.request [0x05, 0x00]) = .error (.unassignedOpcode 0x05)
      ∧ decode (.request [0x04, 0x41, 0x02]) = .error (.refusedOperand 0x02)
      ∧ decode (.request [0x15, 0x02]) = .error (.refusedOperand 0x02)
      ∧ decode (.request [0x18, 0xFF]) = .error (.refusedOperand 0xFF)
      ∧ decode (.request [0x1D, 0x02, 0x48]) = .error (.truncated 0x1D)
      ∧ decode (.request []) = .error .noBytes
      ∧ decode (.command 0x00) = .error (.noCommandPattern 0x00)
      ∧ decode (.command 0x23) = .error (.noCommandPattern 0x23) := by decide

theorem test_table_words :
    decodeTableWord 16 0x4103 = some (.dat 0x41) ∧ decodeTableWord 8 0x1D = some (.print [])
      ∧ decodeTableWord 8 0x28 = some (.functionSet false true false) ∧ decodeTableWord 8 0x11 = some .begin
      ∧ decodeTableWord 8 0x10 = some (.construct 0x00 0x00 0x00) := by decide

/-! ## One step of each instruction -/

/-- T1. -/
theorem test_xwr :
    sent (.xwr 0xF7) lit = [0xFF] ∧ sent (.xwr 0x08) dark = [0x08] := by decide

/-- T2, with the enable bit set in the operand and not. -/
theorem test_w4 :
    sent (.w4 0x34) lit = [0x3C, 0x3C, 0x38] ∧ sent (.w4 0x32) dark = [0x32, 0x36, 0x32] := by decide

/-- T3. -/
theorem test_send :
    sent (.send 0x0F .data) dark = [0x01, 0x05, 0x01, 0xF1, 0xF5, 0xF1]
      ∧ sent (.send 0xA5 .command) lit = [0xA8, 0xAC, 0xA8, 0x58, 0x5C, 0x58] := by decide

theorem test_cmd : sent (.cmd 0x80) dark = [0x80, 0x84, 0x80, 0x00, 0x04, 0x00] := by decide

theorem test_dat :
    sent (.dat 0x69) lit = [0x69, 0x6D, 0x69, 0x99, 0x9D, 0x99]
      ∧ (after (exec (.dat 0x69) lit)).responses = [.count 1] := by decide

/-- T4, with the offset that wraps; T9: no rows. -/
theorem test_construct :
    (after (exec (.construct 0x27 16 2) State.reset)).phase = .constructed
      ∧ (after (exec (.construct 0x27 16 2) State.reset)).functionFlags = none
      ∧ (after (exec (.construct 0x27 16 0) State.reset)).lastRefusal = some .zeroRows
      ∧ (after (exec (.construct 0x27 20 4) lit)).lastRefusal = some .alreadyConstructed := by decide

theorem test_begin_fields :
    (after (exec .begin (made 1))).functionFlags = some 0x00
      ∧ (after (exec .begin (made 1))).rowOffsets = ⟨some 0x00, some 0x40, some 0x10, some 0x50⟩
      ∧ (after (exec .begin { made 4 with columns := some 0xC8 })).rowOffsets.x3 = some 0x08 := by decide

theorem test_begin_trace :
    (after (exec .begin (made 2))).trace.length = 79
      ∧ (sent .begin (made 2)).take 16
        = [0x08, 0x38, 0x3C, 0x38, 0x38, 0x3C, 0x38, 0x38, 0x3C, 0x38, 0x28, 0x2C, 0x28, 0x28, 0x2C, 0x28] := by
  decide

/-- T7. -/
theorem test_clear :
    sent .clear lit = [0x08, 0x0C, 0x08, 0x18, 0x1C, 0x18]
      ∧ (after (exec .clear lit)).trace.getLast? = some (.delay (some 2000000) 2000000) := by decide

theorem test_home : sent .home lit = [0x08, 0x0C, 0x08, 0x28, 0x2C, 0x28] := by decide

theorem test_backlight :
    sent (.backlight false) lit = [0x00] ∧ (after (exec (.backlight false) lit)).backlightFlag = some false := by
  decide

theorem test_display :
    sent (.display false) lit = [0x08, 0x0C, 0x08, 0x88, 0x8C, 0x88]
      ∧ (after (exec (.display false) lit)).controlFlags = some 0x00 := by decide

theorem test_cursor :
    sent (.cursor true) lit = [0x08, 0x0C, 0x08, 0xE8, 0xEC, 0xE8]
      ∧ (after (exec (.cursor true) lit)).controlFlags = some 0x06 := by decide

theorem test_blink :
    sent (.blink true) lit = [0x08, 0x0C, 0x08, 0xD8, 0xDC, 0xD8]
      ∧ (after (exec (.blink true) lit)).controlFlags = some 0x05 := by decide

theorem test_scroll :
    sent (.scroll .left) lit = [0x18, 0x1C, 0x18, 0x88, 0x8C, 0x88]
      ∧ sent (.scroll .right) lit = [0x18, 0x1C, 0x18, 0xC8, 0xCC, 0xC8] := by decide

theorem test_text_dir :
    sent (.textDir false) lit = [0x08, 0x0C, 0x08, 0x48, 0x4C, 0x48]
      ∧ (after (exec (.textDir false) lit)).entryModeFlags = some 0x00 := by decide

theorem test_autoscroll :
    sent (.autoscroll true) lit = [0x08, 0x0C, 0x08, 0x78, 0x7C, 0x78]
      ∧ (after (exec (.autoscroll true) lit)).entryModeFlags = some 0x03 := by decide

/-- T6: slot 9 is slot 1, and a bitmap byte is sent whole. -/
theorem test_create_char :
    (sent (.createChar 9 ⟨0xFF, 0x0A, 0x1F, 0x1F, 0x0E, 0x04, 0x00, 0x00⟩) lit).take 12
      = [0x48, 0x4C, 0x48, 0x88, 0x8C, 0x88, 0xF9, 0xFD, 0xF9, 0xF9, 0xFD, 0xF9] := by decide

/-- T5: both clamps, the unchecked column, the sum that wraps. -/
theorem test_set_cursor :
    sent (.setCursor 3 7) lit = [0xC8, 0xCC, 0xC8, 0x38, 0x3C, 0x38]
      ∧ sent (.setCursor 200 0) lit = [0xC8, 0xCC, 0xC8, 0x88, 0x8C, 0x88]
      ∧ sent (.setCursor 1 8) (begun 20 9 true) = [0xD8, 0xDC, 0xD8, 0x58, 0x5C, 0x58]
      ∧ sent (.setCursor 255 1) (begun 16 4 true) = [0xB8, 0xBC, 0xB8, 0xF8, 0xFC, 0xF8] := by decide

/-- T8. -/
theorem test_print :
    sent (.print [0x48, 0x69]) lit
        = [0x49, 0x4D, 0x49, 0x89, 0x8D, 0x89, 0x69, 0x6D, 0x69, 0x99, 0x9D, 0x99]
      ∧ (after (exec (.print [0x48, 0x69]) lit)).responses = [.count 2] := by decide

/-- T8: the failing write has been sent and is not counted. -/
theorem test_print_stops_early :
    txnBytes (after (execWith (Config.withWriteFails standard fun _ b => b = 0x42) (.print [0x41, 0x42, 0x43])
        lit)).trace
        = [0x49, 0x4D, 0x49, 0x19, 0x1D, 0x19, 0x49, 0x4D, 0x49, 0x29, 0x2D, 0x29]
      ∧ (after (execWith (Config.withWriteFails standard fun _ b => b = 0x42) (.print [0x41, 0x42, 0x43])
        lit)).responses = [.count 1] := by decide

/-- T8, T9: null is refused before `BEGIN`. -/
theorem test_print_null :
    sent .printNull lit = [] ∧ (after (exec .printNull lit)).responses = [.count 0]
      ∧ (after (exec .printNull (made 2))).lastRefusal = some .notBegun := by decide

/-- R64, R63: each row's byte as a command byte frame. -/
theorem test_controller_commands :
    sent .clearDisplay lit = [0x08, 0x0C, 0x08, 0x18, 0x1C, 0x18]
      ∧ sent .returnHome lit = [0x08, 0x0C, 0x08, 0x28, 0x2C, 0x28]
      ∧ sent (.entryModeSet true false) lit = [0x08, 0x0C, 0x08, 0x68, 0x6C, 0x68]
      ∧ sent (.displayControl true false true) lit = [0x08, 0x0C, 0x08, 0xD8, 0xDC, 0xD8]
      ∧ sent (.cursorShift true false) lit = [0x18, 0x1C, 0x18, 0x88, 0x8C, 0x88]
      ∧ sent (.functionSet false false true) lit = [0x28, 0x2C, 0x28, 0x48, 0x4C, 0x48]
      ∧ sent (.setCgramAddr 0x38) lit = [0x78, 0x7C, 0x78, 0x88, 0x8C, 0x88]
      ∧ sent (.setDdramAddr 0x45) lit = [0xC8, 0xCC, 0xC8, 0x58, 0x5C, 0x58] := by decide

theorem test_expander_byte :
    sent (.xbyte 0x4 false true false true) lit = [0x4D]
      ∧ sent (.xbyte 0x4 true false false true) dark = [0x49] := by decide

/-- R42, R52 on the trace of `DAT 0x48`: the port's byte, and the two latches. -/
theorem test_observer :
    portAt 0x27 (after (exec (.dat 0x48) lit)).trace = some 0x89
      ∧ portAt 0x28 (after (exec (.dat 0x48) lit)).trace = none
      ∧ pairLatches (latches standard (after (exec (.dat 0x48) lit)).trace) = [some (0x48, true)] := by decide

/-- T9 with R154's order: busy first, then the encoding, then the phase. -/
theorem test_refusal_order :
    (after (step (offered { State.reset with busy := true } [.request [0x1F]]))).lastRefusal = some .busy
      ∧ (after (step (offered State.reset [.request [0x1F]]))).lastRefusal = some .badEncoding
      ∧ (after (step (offered State.reset [.request [0x15, 0x01]]))).lastRefusal = some .unconstructed
      ∧ (after (step (offered (made 2) [.request [0x10, 0x27, 0x10, 0x00]]))).lastRefusal
        = some .alreadyConstructed := by decide

/-- A word placed as the host places it is run by the next step. -/
theorem test_with_fetch_word :
    (after (step (State.reset.withFetchWord 32 0x02102710))).i2cAddress = some 0x27
      ∧ (after (step (State.reset.withFetchWord 32 0x02102710))).rows = some 0x02
      ∧ (after (step (State.reset.withFetchWord 32 0x02102710))).inbox = [] := by decide

/-! ## Witnesses -/

theorem ready_of (cols rows : Byte) (on : Bool) : (begun cols rows on).Ready 0x27 on := ⟨rfl, rfl, rfl, rfl⟩

/-- Nothing constructed yet, with a first request presented. -/
theorem witness_invariant_unconstructed : Inv (offered State.reset [.request [0x10, 0x27, 0x10, 0x02]]) := by
  constructor <;> simp [offered, State.reset, State.Unconfigured, State.NotPopulated]

theorem witness_invariant_constructed : Inv (made 1) := by
  constructor <;> simp [made, State.reset, State.Configured, State.NotPopulated]

theorem witness_invariant_begun : Inv (begun 20 4 false) := by
  constructor <;> simp [begun, State.reset, State.Configured, State.Populated]

/-- DecodeInvertsEncode: the longest text with a word. -/
theorem witness_longest_text_is_wf : (Instr.print (List.replicate 255 0xFF)).wf = true := by
  simp only [Instr.wf, List.length_replicate]; decide

/-- DecodedRequestIsItsEncoding: with bytes behind the request, and with a text of no bytes. -/
theorem witness_requests_decode :
    decodeRequest [0x04, 0xFF, 0x01, 0x11] = .ok (.send 0xFF .data, [0x11])
      ∧ decodeRequest [0x1D, 0x00] = .ok (.print [], []) := by decide

/-- DecodedByteIsItsEncoding: the first byte of a row and the last. -/
theorem witness_commands_decode :
    decodeCommand 0x80 = .ok (.setDdramAddr 0x00) ∧ decodeCommand 0xFF = .ok (.setDdramAddr 0x7F)
      ∧ decodeCommand 0x3C = .ok (.functionSet true true true) := by decide

/-- StepRunsTheDecodedInstruction: a request alone, and one with another behind it. -/
theorem witness_requests_presented :
    lit.busy = false
      ∧ (offered lit [.request [0x11]]).inbox = [.request [0x11]]
      ∧ decode (.request [0x11]) = .ok (.begin, [])
      ∧ decode (.request [0x12, 0x13]) = .ok (.clear, [0x13])
      ∧ decode (.command 0x01) = .ok (.clearDisplay, []) := by decide

/-- MalformedRequestsAreRefused: no bytes, an unassigned opcode at each end of its ranges, a refused operand, a
request that stops one byte short; and each one's nearest accepted neighbour. -/
theorem witness_malformed_requests :
    badRequest [] = true ∧ badRequest [0x05] = true ∧ badRequest [0x0F] = true ∧ badRequest [0x1F] = true
      ∧ badRequest [0x04, 0x41, 0x02] = true ∧ badRequest [0x14, 0x02] = true ∧ badRequest [0x1A, 0xFF] = true
      ∧ badRequest [0x1D, 0x02, 0x48] = true ∧ badRequest [0x1B, 1, 2, 3, 4, 5, 6, 7, 8] = true
      ∧ badRequest [0x1E] = false ∧ badRequest [0x04, 0x41, 0x01] = false ∧ badRequest [0x1A, 0x01] = false
      ∧ badRequest [0x1D, 0x02, 0x48, 0x69] = false ∧ badRequest [0x1B, 1, 2, 3, 4, 5, 6, 7, 8, 9] = false := by
  decide

/-- RequestsWhileBusyAreRefused and NothingPresentedWaitsOrGoesOn. -/
theorem witness_busy_states :
    (offered { lit with busy := true, running := [.xwr 0x00] } [.request [0x11]]).busy = true
      ∧ { lit with busy := true, running := [.xwr 0x00] }.inbox = [] ∧ lit.inbox = [] ∧ lit.busy = false := by
  decide

/-- ExecRefusesForTheFirstReason: every reason it can give. -/
theorem witness_reasons :
    reasonByTable .begin { State.reset with busy := true } = some .busy
      ∧ reasonByTable .begin State.reset = some .unconstructed
      ∧ reasonByTable .printNull (made 1) = some .notBegun
      ∧ reasonByTable (.construct 0 0 0) lit = some .alreadyConstructed
      ∧ reasonByTable (.construct 0 0 0) State.reset = some .zeroRows := by decide

/-- ExecCompletesWithoutAReason, in each phase. -/
theorem witness_no_reason :
    Inv (offered State.reset [.request [0x10, 0x27, 0x10, 0x02]])
      ∧ reasonByTable (.construct 0xFF 0xFF 1) (offered State.reset [.request [0x10, 0x27, 0x10, 0x02]]) = none
      ∧ Inv (made 1) ∧ reasonByTable .begin (made 1) = none
      ∧ Inv (begun 20 4 false) ∧ reasonByTable (.setCursor 0xFF 0xFF) (begun 20 4 false) = none
      ∧ reasonByTable .begin (begun 20 4 false) = none :=
  ⟨witness_invariant_unconstructed, by decide, witness_invariant_constructed, by decide, witness_invariant_begun,
    by decide, by decide⟩

/-- Every statement that asks for a ready state, with each level of the backlight; the flag registers for the
toggles and ToggleAfterRawCommandReissuesTheCopy. -/
theorem witness_ready :
    lit.Ready 0x27 true ∧ dark.Ready 0x27 false ∧ lit.controlFlags = some 0x04 ∧ lit.entryModeFlags = some 0x02 :=
  ⟨ready_of 16 2 true, ready_of 16 2 false, rfl, rfl⟩

/-- RefusedBeforeBegun: both phases before Begun. -/
theorem witness_before_begun :
    State.reset.busy = false ∧ State.reset.phase ≠ .begun ∧ (made 1).busy = false ∧ (made 1).phase ≠ .begun := by
  decide

/-- ToggleAfterRawCommandReissuesTheCopy: each toggle with its bit and the copy it reads. -/
theorem witness_toggle_after_raw :
    lit.Ready 0x27 true ∧ lit.controlFlags = some 0x04 ∧ lit.entryModeFlags = some 0x02
      ∧ ((Instr.display true = .display true ∧ (0x04 : Byte) = 0x04)
        ∨ (Instr.display true = .cursor true ∧ (0x04 : Byte) = 0x02)
        ∨ (Instr.display true = .blink true ∧ (0x04 : Byte) = 0x01))
      ∧ ((Instr.autoscroll false = .textDir false ∧ (0x01 : Byte) = 0x02)
        ∨ (Instr.autoscroll false = .autoscroll false ∧ (0x01 : Byte) = 0x01)) :=
  ⟨ready_of 16 2 true, rfl, rfl, .inl ⟨rfl, rfl⟩, .inr ⟨rfl, rfl⟩⟩

/-- DatSendsADataByteAndCounts and PrintSendsTheTextAndCounts, where a write fails. -/
theorem witness_failing_write :
    (∀ t : State, (fun (_ : State) (_ : Byte) => true) t 0x41 = true)
      ∧ (∀ t : State, (fun (_ : State) (b : Byte) => decide (b = 0x42)) t 0x41 = false)
      ∧ (∀ b ∈ ([0x41] : List Byte), (fun b : Byte => decide (b = 0x42)) b = false)
      ∧ (fun b : Byte => decide (b = 0x42)) 0x42 = true := by
  refine ⟨fun _ => rfl, fun _ => rfl, by decide, by decide⟩

/-- SendRecombinesAndLatchesTwice, W4LatchesItsNibble: enable low on an empty bus and after an operation; operands
with enable and read/write clear. -/
theorem witness_enable_low :
    (∀ b, (txnBytes lit.trace).getLast? = some b → b &&& 0x04 = 0)
      ∧ (∀ b, (txnBytes (after (exec (.dat 0x48) lit)).trace).getLast? = some b → b &&& 0x04 = 0)
      ∧ (0x00 : Byte) &&& 0x06 = 0 ∧ (0xF9 : Byte) &&& 0x06 = 0 := by decide

/-- NibblesRecombineForEveryMask: the default masks, and others. -/
theorem witness_masks :
    standard.masksWf = true
      ∧ ({ standard with rsMask := 0x08, rwMask := 0x04, enMask := 0x02, blMask := 0x01 } : Config).masksWf = true := by
  decide

/-- ConstructWritesItsFields: each clause. -/
theorem witness_construct :
    State.reset.phase = .unconstructed ∧ State.reset.busy = false ∧ (1 : Byte) ≠ 0 ∧ (0xFF : Byte) ≠ 0
      ∧ (made 1).phase ≠ .unconstructed ∧ lit.phase ≠ .unconstructed := by decide

/-- BeginRunsItsTwelveSteps and the two statements after it: one row, two, many; a first `BEGIN` and a second. -/
theorem witness_begin :
    (made 1).phase = .constructed ∧ (made 1).busy = false ∧ (made 1).trace = []
      ∧ (made 1).i2cAddress = some 0x27 ∧ (made 1).columns = some 16 ∧ (made 1).rows = some 1
      ∧ (made 1).charSizeFlag = some false ∧ (made 1).backlightFlag = some true
      ∧ (made 2).rows = some 2 ∧ 1 < (2 : Byte).toNat ∧ (made 255).rows = some 255 ∧ 1 < (255 : Byte).toNat
      ∧ (made 1).rows ≠ some 0 ∧ lit.phase ≠ .unconstructed ∧ dark.backlightFlag = some false := by decide

/-- EntryTogglesReissueEntryModeSet, its last clause: a `BEGIN` from a state of the invariant. -/
theorem witness_begin_entry_mode :
    Inv (made 1) ∧ (made 1).phase ≠ .unconstructed
      ∧ ∃ t, exec .begin (made 1) = .next t ∧ t.entryModeFlags = some 0x02 :=
  ⟨witness_invariant_constructed, by decide, ⟨_, rfl, by decide⟩⟩

/-- SetCursorSendsTheClampedAddress: the first row, the last of four, a row past the table, a single line. -/
theorem witness_set_cursor :
    (begun 20 4 true).rowOffsets.read (min (0 : Byte).toNat (min 3 ((4 : Byte).toNat - 1))) = some 0x00
      ∧ (begun 20 4 true).rowOffsets.read (min (3 : Byte).toNat (min 3 ((4 : Byte).toNat - 1))) = some 0x54
      ∧ (begun 20 255 true).rowOffsets.read (min (255 : Byte).toNat (min 3 ((255 : Byte).toNat - 1))) = some 0x54
      ∧ (begun 16 1 true).rowOffsets.read (min (4 : Byte).toNat (min 3 ((1 : Byte).toNat - 1))) = some 0x00 := by
  decide

/-- SetCursorClampsRows: each clause at its first row; SetCursorAddressesTheLines. -/
theorem witness_clamped_rows :
    lit.rows = some 2 ∧ (2 : Byte) ≠ 0 ∧ (2 : Byte).toNat ≤ (2 : Byte).toNat ∧ 4 ≤ (4 : Byte).toNat
      ∧ Inv (begun 20 4 false) ∧ (begun 20 4 false).phase = .begun :=
  ⟨rfl, by decide, by decide, by decide, witness_invariant_begun, rfl⟩

/-- ControllerCommandsSendTheirPattern: every row. -/
theorem witness_command_bytes :
    commandByte .clearDisplay = some 0x01 ∧ commandByte .returnHome = some 0x02
      ∧ commandByte (.entryModeSet true true) = some 0x07
      ∧ commandByte (.displayControl false false false) = some 0x08
      ∧ commandByte (.cursorShift true false) = some 0x18
      ∧ commandByte (.functionSet false true false) = some 0x28
      ∧ commandByte (.setCgramAddr 0x3F) = some 0x7F ∧ commandByte (.setDdramAddr 0x7F) = some 0xFF := by decide

/-- The frames: an instruction of each kind answers a next state. -/
theorem witness_frames :
    (writesTraceOnly (.setCursor 0 1) = true ∧ ∃ t, exec (.setCursor 0 1) lit = .next t)
      ∧ (∃ t, exec .printNull lit = .next t) ∧ (∃ t, exec (.construct 0x27 16 2) State.reset = .next t)
      ∧ (∃ t, exec (.display false) lit = .next t ∧ t.controlFlags = some 0x00)
      ∧ (∃ t, exec (.textDir false) lit = .next t ∧ t.entryModeFlags = some 0x00)
      ∧ (∃ t, exec (.backlight false) lit = .next t) ∧ ∃ t, exec .begin (made 2) = .next t :=
  ⟨⟨rfl, _, rfl⟩, ⟨_, rfl⟩, ⟨_, rfl⟩, ⟨_, rfl, by decide⟩, ⟨_, rfl, by decide⟩, ⟨_, rfl⟩, ⟨_, rfl⟩⟩

/-- OnlyTheirWritersChangeFields: each group of fields does change under one of its writers. -/
theorem witness_writers :
    (after (exec (.construct 0x27 16 2) State.reset)).rows ≠ State.reset.rows
      ∧ (after (exec (.backlight false) lit)).backlightFlag ≠ lit.backlightFlag
      ∧ (after (exec .begin (made 2))).rowOffsets ≠ (made 2).rowOffsets
      ∧ (after (exec (.blink true) lit)).controlFlags ≠ lit.controlFlags
      ∧ (after (exec (.autoscroll true) lit)).entryModeFlags ≠ lit.entryModeFlags
      ∧ (after (exec .begin (made 2))).phase ≠ (made 2).phase := by decide

/-- TransactionsGoToTheDevice and the two statements about composed bytes: a byte that an operation sent. -/
theorem witness_sent_byte :
    composes (.backlight false) = true ∧ (∃ t, exec (.backlight false) lit = .next t
      ∧ t.trace = lit.trace ++ [.txn 0x27 0x00]) ∧ Event.txn 0x27 0x00 ∈ [Event.txn 0x27 0x00] :=
  ⟨rfl, ⟨_, rfl, by decide⟩, by decide⟩

/-- EnablePulsesAreWhole: both kinds of operation; and `wellPulsed` can fail. -/
theorem witness_pulses :
    (0x30 : Byte) &&& 0x04 = 0 ∧ (∃ t, exec (.w4 0x30) lit = .next t ∧ t.trace = lit.trace ++ nibbleFrame 0x27 0x30 true)
      ∧ wellPulsed [.txn 0x27 0x3C] = false := by
  refine ⟨by decide, ⟨_, rfl, by decide⟩, by decide⟩

/-- GeometryIsWrittenOnce and StepsOnlyAppendAndNeverLower: an accepted step from a state past construction. -/
theorem witness_past_construction :
    lit.phase ≠ .unconstructed ∧ lit.busy = false ∧ (∃ t, exec (.display true) lit = .next t)
      ∧ ∃ t, step (offered lit [.request [0x12]]) = .next t :=
  ⟨by decide, rfl, ⟨_, rfl⟩, ⟨_, rfl⟩⟩

/-- OperationsEmitTheirCounts: what the toggles, `SETCURSOR` and `BEGIN` read, and the counts' boundary, a text of no
bytes and one of one byte. -/
theorem witness_counts :
    lit.Ready 0x27 true ∧ (∃ f, lit.controlFlags = some f) ∧ (∃ f, lit.entryModeFlags = some f)
      ∧ (∃ rows offset, lit.rows = some rows ∧ rows ≠ 0
        ∧ lit.rowOffsets.read (min (255 : Byte).toNat (min 3 (rows.toNat - 1))) = some offset)
      ∧ (∃ cols rows font, lit.columns = some cols ∧ lit.rows = some rows ∧ lit.charSizeFlag = some font)
      ∧ (∃ text, Instr.print [] = .print text ∧ (0, 0, 0, 0, 0)
        = (10 * text.length, 6 * text.length, 4 * text.length, 74900 * text.length, 102000 * text.length))
      ∧ ∃ text, Instr.print [0x41] = .print text ∧ (10, 6, 4, 74900, 102000)
        = (10 * text.length, 6 * text.length, 4 * text.length, 74900 * text.length, 102000 * text.length) :=
  ⟨ready_of 16 2 true, ⟨_, rfl⟩, ⟨_, rfl⟩, ⟨2, 0x40, rfl, by decide, by decide⟩, ⟨_, _, _, rfl, rfl, rfl⟩, ⟨[], rfl, rfl⟩,
    ⟨[0x41], rfl, rfl⟩⟩

/-- SequencerPositionCountsEvents: each of its three cases. -/
theorem witness_ticks :
    (tick standard { lit with busy := true, running := [.write (.backlightFlag false)] }).upc = 0
      ∧ (tick standard { lit with busy := true, running := [.xwr 0x00] }).upc = 1
      ∧ (tick standard { lit with busy := true, upc := 3, running := [] }).busy = false := by decide

/-- R5's defaults with the enable and read/write lines exchanged, and with another literal for the command that clears
the display. -/
def rewired : Config :=
  { standard with enMask := 0x02, rwMask := 0x04, clearDisplay := 0x03 }

/-- R60, R90: an expander byte is the byte on the bus, whatever lines its bits stand for. -/
theorem test_rewired_expander :
    (after (stepWith rewired (offered dark [.expander 0x04]))).trace = dark.trace ++ [.txn 0x27 0x04]
      ∧ (after (eventSteps rewired 3 (offered dark [.expander 0x04]))).trace = dark.trace ++ [.txn 0x27 0x04] := by
  decide

/-- R5, R64: a command byte is read with the configuration's literals. -/
theorem test_rewired_command :
    decodeWith rewired (.command 0x03) = .ok (.clearDisplay, [])
      ∧ decodeWith standard (.command 0x03) = .error (.noCommandPattern 0x03) := by decide

/-- StepWithRunsTheDecodedInstruction and PresentedBytesMeanTheirRawRequest: configurations other than the default, for
each clause. -/
theorem witness_rewired :
    rewired.masksWf = true ∧ (offered dark [.expander 0x04]).busy = false
      ∧ decodeWith rewired (.expander 0x04) = .ok (.xbyte 0 false false true false, [])
      ∧ decodeWith rewired (.command 0x03) = .ok (.clearDisplay, [])
      ∧ controllerCommand rewired (.displayControl true false false) = some 0x0C
      ∧ decodeWith rewired (.request [0x12, 0x12]) = .ok (.clear, [0x12]) := by decide

/-- notes/assumptions/24.md: two requests waiting; the queue of `step` serves the second, `eventStep` refuses it. -/
theorem test_waiting_request :
    (after (step (after (step (offered lit [.request [0x14, 0x00], .request [0x1E]]))))).refused = false
      ∧ (after (eventSteps standard 2 (offered lit [.request [0x14, 0x00], .request [0x1E]]))).lastRefusal
        = some .busy := by decide

/-- EventStepsReachTheWholeOperation: a request presented alone to an idle block. -/
theorem witness_presented_alone :
    (offered lit [.request [0x14, 0x00]]).busy = false
      ∧ decodeWith standard (.request [0x14, 0x00]) = .ok (.backlight false, [])
      ∧ ∃ t, execWith standard (.backlight false) { offered lit [.request [0x14, 0x00]] with inbox := [] } = .next t :=
  ⟨rfl, by decide, ⟨_, rfl⟩⟩

/-- StepsKeepTheInvariant, in each phase. -/
theorem witness_invariant_step :
    Inv (offered State.reset [.request [0x10, 0x27, 0x10, 0x02]])
      ∧ (∃ t, step (offered State.reset [.request [0x10, 0x27, 0x10, 0x02]]) = .next t ∧ t.phase = .constructed)
      ∧ Inv (made 1) ∧ (∃ t, step (made 1) = .next t)
      ∧ Inv (begun 20 4 false) ∧ ∃ t, step (begun 20 4 false) = .next t :=
  ⟨witness_invariant_unconstructed, ⟨_, rfl, rfl⟩, witness_invariant_constructed, ⟨_, rfl⟩,
    witness_invariant_begun, ⟨_, rfl⟩⟩

end Sys2Proof.Tests
end

section
/-! SUPPORT. Proofs of the statements of 00_scope.md: what a step of an idle block runs under a configuration, what a
presented command or expander byte means there, and that the nibble operands recombine under every choice of the
control masks that R5 allows. -/

namespace Sys2Proof.Machine

/-! ## A step of an idle block (R5) -/

theorem presentRest_eq_ite (rest : List Byte) (later : List Presented) :
    presentRest rest later = if rest = [] then later else .request rest :: later := by
  cases rest with
  | nil => rfl
  | cons b bs => simp [presentRest]

/-- What decodes is taken from an idle block's inbox, whatever the decoder. -/
theorem fetchBy_run {dec : Presented → Decoded} {s : State} {p : Presented} {later : List Presented} {i : Instr}
    {rest : List Byte} (hb : s.busy = false) (hi : s.inbox = p :: later) (hd : dec p = .ok (i, rest)) :
    fetchBy dec s = .run i { s with inbox := presentRest rest later } := by
  simp [fetchBy, hi, hb, hd]

/-- Settles O8: the configured fetch hands the decoded instruction, and the state it leaves, to `execWith`. -/
theorem stepWithRunsTheDecodedInstruction : Obligations.StepWithRunsTheDecodedInstruction := by
  intro c s p later i rest hb hi hd
  have hf : fetchWith c s = .run i { s with inbox := presentRest rest later } := fetchBy_run hb hi hd
  simp only [stepWith, hf, presentRest_eq_ite]

/-! ## Presented command and expander bytes (R5; notes/assumptions/7.md) -/

/-- An instruction that has a command byte acts as `CMD` of that byte (40_sequencer_core.md R98). -/
theorem execWith_of_controllerCommand {c : Config} {i : Instr} {b : Byte} (h : controllerCommand c i = some b)
    (s : State) : execWith c i s = execWith c (.cmd b) s := by
  cases i <;> cases h <;> rfl

/-- An instruction of the expander row acts as `XWR` of the byte its lines make (R90). -/
theorem execWith_xbyte (c : Config) (d : Nibble) (l e w r : Bool) (s : State) :
    execWith c (.xbyte d l e w r) s = execWith c (.xwr (expanderByte c d l e w r)) s := rfl

theorem decodeWith_command_ok {c : Config} {b : Byte} {i : Instr} :
    decodeWith c (.command b) = .ok (i, []) ↔ decodeCommandWith c b = .ok i := by
  cases h : decodeCommandWith c b <;> simp [decodeWith, h, Except.map]

/-- Settles O41: a command byte that decodes is the command byte of what it decodes to, and an expander byte is rebuilt
from the lines read off the masks. -/
theorem presentedBytesMeanTheirRawRequest : Obligations.PresentedBytesMeanTheirRawRequest := by
  refine ⟨fun c b i s h => ?_, fun c b i h => ?_, fun c b s hc => ?_⟩
  · exact execWith_of_controllerCommand (controllerCommand_of_decode (decodeWith_command_ok.mp h)) s
  · obtain ⟨j, hj⟩ := decodeCommandWith_isOk h
    exact ⟨j, decodeWith_command_ok.mpr hj⟩
  · refine ⟨decodeExpanderWith c b, rfl, ?_⟩
    have hx := expanderByte_of_decode hc (b := b) rfl
    rw [decodeExpanderWith, execWith_xbyte, hx]

/-! ## The nibble operands under every choice of the control masks (R5, R97) -/

/-- A single bit inside `0x0F` lies off the data lines. -/
theorem lowSingleBit_and_dataLines : ∀ m : Byte, lowSingleBit m = true → m &&& 0xF0 = 0 := by
  decide

/-- Different single bits do not overlap. -/
theorem lowSingleBit_and_of_ne {m n : Byte} (hm : lowSingleBit m = true) (hn : lowSingleBit n = true)
    (h : m ≠ n) : m &&& n = 0 := by
  simp only [lowSingleBit, Bool.or_eq_true, decide_eq_true_eq] at hm hn
  rcases hm with ((rfl | rfl) | rfl) | rfl <;> rcases hn with ((rfl | rfl) | rfl) | rfl <;> revert h <;> decide

/-- What the operand rules use of R5's constraint: the register-select mask and the other three together lie off the
data lines and do not overlap. -/
theorem masksWf_disjoint {c : Config} (h : c.masksWf = true) :
    c.dataMask = 0xF0 ∧ c.rsMask &&& 0xF0 = 0 ∧ (c.enMask ||| c.rwMask ||| c.blMask) &&& 0xF0 = 0
      ∧ c.rsMask &&& (c.enMask ||| c.rwMask ||| c.blMask) = 0 := by
  simp only [Cfg.masksWf, Bool.and_eq_true, decide_eq_true_eq] at h
  obtain ⟨⟨⟨⟨⟨⟨⟨⟨⟨⟨hd, hrs⟩, hrw⟩, hen⟩, hbl⟩, hrsrw⟩, hrsen⟩, hrsbl⟩, -⟩, -⟩, -⟩ := h
  refine ⟨hd, lowSingleBit_and_dataLines _ hrs, ?_, ?_⟩
  · simp only [BitVec.and_or_distrib_right, lowSingleBit_and_dataLines _ hen, lowSingleBit_and_dataLines _ hrw,
      lowSingleBit_and_dataLines _ hbl, BitVec.or_self]
  · simp only [BitVec.and_or_distrib_left, lowSingleBit_and_of_ne hrs hen hrsen, lowSingleBit_and_of_ne hrs hrw hrsrw,
      lowSingleBit_and_of_ne hrs hbl hrsbl, BitVec.or_self]

/-- A nibble operand shows its nibble on the data lines, for a mode mask off them. -/
theorem nibbleOperand_and_dataLines {x m : Byte} (hm : m &&& 0xF0 = 0) :
    (x &&& 0xF0 ||| m) &&& 0xF0 = x &&& 0xF0 := by
  rw [BitVec.and_or_distrib_right, hm, BitVec.and_assoc, BitVec.and_self]
  exact BitVec.or_zero

/-- A nibble operand has none of the bits `k`, for `k` off the data lines and off the mode mask. -/
theorem nibbleOperand_and_eq_zero {x m k : Byte} (hm : m &&& k = 0) (hk : k &&& 0xF0 = 0) :
    (x &&& 0xF0 ||| m) &&& k = 0 := by
  rw [BitVec.and_or_distrib_right, hm, BitVec.and_assoc, BitVec.and_comm 0xF0, hk]
  simp

/-- R97's recombination on the data lines alone. -/
theorem nibbles_recombine : ∀ v : Byte, (v &&& 0xF0) ||| ((v <<< 4 &&& 0xF0) >>> 4) = v := by
  decide

/-- The mode mask is the register-select mask or nothing, so it is disjoint from what that mask is disjoint from. -/
theorem modeMask_and_eq_zero {c : Config} {k : Byte} (mode : Mode) (h : c.rsMask &&& k = 0) :
    modeMask c mode &&& k = 0 := by
  cases mode with
  | command => exact BitVec.zero_and
  | data => exact h

/-- Settles O21: the mode mask lies off the data lines and off the other three masks, so the data lines carry the
nibbles alone and nothing else of an operand meets those masks. -/
theorem nibblesRecombineForEveryMask : Obligations.NibblesRecombineForEveryMask := by
  intro c v mode hc
  obtain ⟨hd, hrs, hk, hrsk⟩ := masksWf_disjoint hc
  have hm : modeMask c mode &&& 0xF0 = 0 := modeMask_and_eq_zero mode hrs
  have hmk : modeMask c mode &&& (c.enMask ||| c.rwMask ||| c.blMask) = 0 := modeMask_and_eq_zero mode hrsk
  simp only [highNibbleByte, lowNibbleByte, hd]
  constructor
  · rw [nibbleOperand_and_dataLines hm, nibbleOperand_and_dataLines hm]
    exact nibbles_recombine v
  · rw [BitVec.and_or_distrib_right, nibbleOperand_and_eq_zero hmk hk, nibbleOperand_and_eq_zero hmk hk]
    exact BitVec.or_zero

end Sys2Proof.Machine
end

section
/-! SUPPORT. Proofs of the statements of 10_state.md. First what an instruction leaves unchanged and what exactly an
accepted one leaves, said once; then the frames (R24), the invariant (R17 to R23, R35), and the block event by event
(R25, R26). -/

namespace Sys2Proof.Machine

/-! ## What an instruction leaves unchanged (R24) -/

/-- `t` agrees with `s` on every DeviceState field, and on the phase, that `may` forbids to be written. -/
structure Frame (may : FieldWrite → Bool) (s t : State) : Prop where
  i2cAddress : (∀ b, may (.i2cAddress b) = false) → t.i2cAddress = s.i2cAddress
  columns : (∀ b, may (.columns b) = false) → t.columns = s.columns
  rows : (∀ b, may (.rows b) = false) → t.rows = s.rows
  charSizeFlag : (∀ f, may (.charSizeFlag f) = false) → t.charSizeFlag = s.charSizeFlag
  backlightFlag : (∀ f, may (.backlightFlag f) = false) → t.backlightFlag = s.backlightFlag
  functionFlags : (∀ b, may (.functionFlags b) = false) → t.functionFlags = s.functionFlags
  controlFlags : (∀ b, may (.controlFlags b) = false) → t.controlFlags = s.controlFlags
  entryModeFlags : (∀ b, may (.entryModeFlags b) = false) → t.entryModeFlags = s.entryModeFlags
  rowOffsets : (∀ i b, may (.rowOffset i b) = false) → t.rowOffsets = s.rowOffsets
  phase : (∀ p, may (.phase p) = false) → t.phase = s.phase

theorem Frame.of_sameDevice {may : FieldWrite → Bool} {s t : State} (h : SameDevice s t)
    (hp : t.phase = s.phase) : Frame may s t := by
  obtain ⟨h1, h2, h3, h4, h5, h6, h7, h8, h9⟩ := h
  exact ⟨fun _ => h1, fun _ => h2, fun _ => h3, fun _ => h4, fun _ => h5, fun _ => h6, fun _ => h7, fun _ => h8,
    fun _ => h9, fun _ => hp⟩

theorem Frame.trans {may : FieldWrite → Bool} {s t u : State} (h : Frame may s t) (g : Frame may t u) :
    Frame may s u where
  i2cAddress hn := (g.i2cAddress hn).trans (h.i2cAddress hn)
  columns hn := (g.columns hn).trans (h.columns hn)
  rows hn := (g.rows hn).trans (h.rows hn)
  charSizeFlag hn := (g.charSizeFlag hn).trans (h.charSizeFlag hn)
  backlightFlag hn := (g.backlightFlag hn).trans (h.backlightFlag hn)
  functionFlags hn := (g.functionFlags hn).trans (h.functionFlags hn)
  controlFlags hn := (g.controlFlags hn).trans (h.controlFlags hn)
  entryModeFlags hn := (g.entryModeFlags hn).trans (h.entryModeFlags hn)
  rowOffsets hn := (g.rowOffsets hn).trans (h.rowOffsets hn)
  phase hn := (g.phase hn).trans (h.phase hn)

/-- A permitted write changes its own field, which `may` does not forbid, and no other. -/
theorem Frame.write {may : FieldWrite → Bool} {w : FieldWrite} (hw : may w = true) (s : State) :
    Frame may s (w.apply s) := by
  cases w <;> constructor <;> intro hn <;> simp_all

/-- One step of an expansion changes the field it writes, if it writes one. -/
theorem Frame.run {may : FieldWrite → Bool} {c : Config} {m : Micro}
    (hm : ∀ w, m = .write w → may w = true) (s : State) : Frame may s (m.run c s) := by
  by_cases hw : ∃ w, m = .write w
  · obtain ⟨w, rfl⟩ := hw
    exact .write (hm w rfl) s
  · obtain ⟨hd, hp⟩ := run_keeps (c := c) (s := s) fun w h => hw ⟨w, h⟩
    exact .of_sameDevice hd hp

/-- An instruction changes only the fields it may write. -/
theorem exec_frame {i : Instr} {s t : State} (h : exec i s = .next t) : Frame (mayWrite i) s t :=
  exec_invariant (Frame (mayWrite i) s) h (.of_sameDevice (.refl s) rfl)
    (fun _ hs => hs.trans (.of_sameDevice (.refl _) rfl)) (fun hs => hs.trans (.of_sameDevice (.refl _) rfl))
    (fun _ hu => hu.trans (.of_sameDevice (.refl _) rfl)) fun _ u hm hu => hu.trans (.run hm u)

/-- A frame that forbids every write keeps all of DeviceState and the phase. -/
theorem Frame.sameDevice {may : FieldWrite → Bool} {s t : State} (h : Frame may s t) (hn : ∀ w, may w = false) :
    SameDevice s t ∧ t.phase = s.phase :=
  ⟨⟨h.i2cAddress fun _ => hn _, h.columns fun _ => hn _, h.rows fun _ => hn _, h.charSizeFlag fun _ => hn _,
    h.backlightFlag fun _ => hn _, h.functionFlags fun _ => hn _, h.controlFlags fun _ => hn _,
    h.entryModeFlags fun _ => hn _, h.rowOffsets fun _ _ => hn _⟩, h.phase fun _ => hn _⟩

/-- The operations that write only the trace keep all of DeviceState and the phase. -/
theorem exec_traceOnly_keeps {i : Instr} {s t : State} (hi : writesTraceOnly i = true) (h : exec i s = .next t) :
    SameDevice s t ∧ t.phase = s.phase :=
  (exec_frame h).sameDevice (mayWrite_of_writesTraceOnly hi)

/-- Every port but the device's reads as before, and events are only appended (20_memory.md R41, R42). -/
theorem exec_ports {i : Instr} {s t : State} (h : exec i s = .next t) :
    t.inbox = s.inbox ∧ PortsSameBut s.i2cAddress s t ∧ s.trace <+: t.trace := by
  obtain ⟨es, htr, hdev, hin⟩ := exec_appends h
  exact ⟨hin, .of_events htr hdev, es, htr.symm⟩

theorem PortsSameBut.of_trace_eq {d : Option Byte} {s t : State} (h : t.trace = s.trace) : PortsSameBut d s t :=
  fun _ _ => by rw [h]

/-! ## The writers of each field (R12 to R20, R22, R24) -/

section
variable {i : Instr}

theorem mayWrite_i2cAddress {b : Byte} (h : mayWrite i (.i2cAddress b) = true) : ∃ a c r, i = .construct a c r := by
  cases i <;> simp_all [mayWrite]

theorem mayWrite_columns {b : Byte} (h : mayWrite i (.columns b) = true) : ∃ a c r, i = .construct a c r := by
  cases i <;> simp_all [mayWrite]

theorem mayWrite_rows {b : Byte} (h : mayWrite i (.rows b) = true) : ∃ a c r, i = .construct a c r := by
  cases i <;> simp_all [mayWrite]

theorem mayWrite_charSizeFlag {f : Bool} (h : mayWrite i (.charSizeFlag f) = true) :
    ∃ a c r, i = .construct a c r := by
  cases i <;> simp_all [mayWrite]

theorem mayWrite_backlightFlag {f : Bool} (h : mayWrite i (.backlightFlag f) = true) :
    (∃ a c r, i = .construct a c r) ∨ ∃ on, i = .backlight on := by
  cases i <;> simp_all [mayWrite]

theorem mayWrite_functionFlags {b : Byte} (h : mayWrite i (.functionFlags b) = true) : i = .begin := by
  cases i <;> simp_all [mayWrite]

theorem mayWrite_rowOffset {n : Fin 4} {b : Byte} (h : mayWrite i (.rowOffset n b) = true) : i = .begin := by
  cases i <;> simp_all [mayWrite]

theorem mayWrite_controlFlags {b : Byte} (h : mayWrite i (.controlFlags b) = true) :
    i = .begin ∨ ∃ on, i = .display on ∨ i = .cursor on ∨ i = .blink on := by
  cases i <;> simp_all [mayWrite]

theorem mayWrite_entryModeFlags {b : Byte} (h : mayWrite i (.entryModeFlags b) = true) :
    i = .begin ∨ ∃ on, i = .textDir on ∨ i = .autoscroll on := by
  cases i <;> simp_all [mayWrite]

theorem mayWrite_phase {p : Phase} (h : mayWrite i (.phase p) = true) :
    i = .begin ∨ ∃ a c r, i = .construct a c r := by
  cases i <;> simp_all [mayWrite]

/-- What is no writer may not write. -/
theorem mayWrite_eq_false {w : FieldWrite} {writer : Prop} (hw : mayWrite i w = true → writer) (hi : ¬ writer) :
    mayWrite i w = false :=
  Bool.eq_false_of_not_eq_true fun h => hi (hw h)

end

/-- Only `CONSTRUCT` writes the address, the geometry and the font (R12 to R15). -/
theorem exec_keeps_geometry {i : Instr} {s t : State} (hi : ¬ ∃ a c r, i = .construct a c r)
    (h : exec i s = .next t) :
    t.i2cAddress = s.i2cAddress ∧ t.columns = s.columns ∧ t.rows = s.rows ∧ t.charSizeFlag = s.charSizeFlag :=
  have f := exec_frame h
  ⟨f.i2cAddress fun _ => mayWrite_eq_false mayWrite_i2cAddress hi,
    f.columns fun _ => mayWrite_eq_false mayWrite_columns hi,
    f.rows fun _ => mayWrite_eq_false mayWrite_rows hi,
    f.charSizeFlag fun _ => mayWrite_eq_false mayWrite_charSizeFlag hi⟩

/-! ## What exactly an accepted operation leaves -/

/-- `functionFlagsAfterBegin` is step 2 of `BEGIN` under the default configuration (R17, 41_lifecycle.md R112). -/
theorem bringUpFunctionFlags_standard (rows : Byte) (font : Bool) :
    bringUpFunctionFlags standard rows font = functionFlagsAfterBegin rows font := by
  revert rows; cases font <;> decide

theorem perform_construct (addr cols rows : Byte) (s : State) :
    perform standard (constructMicros standard addr cols rows) s = { s.completed [] .done with
      i2cAddress := some addr, columns := some cols, rows := some rows
      charSizeFlag := some false, backlightFlag := some true, phase := .constructed } := by
  simp [perform, constructMicros, drain_cons, stops_standard, Micro.run, FieldWrite.apply, finish, accept,
    State.completed, State.response, show standard.largeFont = false from rfl]

/-- A write of one field but the address and the backlight flag, then a command byte frame: what a toggle does. -/
theorem perform_write_cmd {s : State} {addr : Byte} {on : Bool} (w : FieldWrite) (v : Byte)
    (hw : (∀ b, w ≠ .i2cAddress b) ∧ ∀ b, w ≠ .backlightFlag b)
    (ha : s.i2cAddress = some addr) (hb : s.backlightFlag = some on) :
    perform standard (.write w :: cmdMicros standard v) s
      = w.apply (s.completed (byteFrame addr v false on) .done) := by
  have hp : ∀ m ∈ Micro.write w :: cmdMicros standard v, m.isBus = true
      ∨ ∃ w, m = .write w ∧ (∀ b, w ≠ .i2cAddress b) ∧ ∀ b, w ≠ .backlightFlag b := by
    intro m hm
    rcases List.mem_cons.mp hm with rfl | hm
    · exact .inr ⟨w, rfl, hw⟩
    · exact .inl (sendMicros_isBus _ _ _ m hm)
  have he : (Micro.write w :: cmdMicros standard v).flatMap (busEvent standard addr on)
      = byteFrame addr v false on := send_events addr v .command on
  rw [perform, drain_writes hp (s := accept s) ha hb, he]
  cases w <;> rfl

theorem perform_backlight {s : State} {addr : Byte} (on : Bool) (ha : s.i2cAddress = some addr) :
    perform standard (backlightMicros on) s
      = { s.completed [.txn addr (blBit on)] .done with backlightFlag := some on } := by
  simp [perform, backlightMicros, drain_cons, stops_standard, Micro.run, FieldWrite.apply, transmit, memWrite, emit,
    finish, accept, State.completed, State.response, ha]

theorem beginMicros_steps (rows cols : Byte) (font : Bool) :
    ∀ m ∈ beginMicros standard rows cols font, m.isBus = true
      ∨ ∃ w, m = .write w ∧ (∀ b, w ≠ .i2cAddress b) ∧ ∀ b, w ≠ .backlightFlag b := by
  simp [beginMicros, w4Micros, cmdMicros, sendMicros, Micro.isBus]

/-- The fields that `BEGIN` writes, without its events (R112, steps 2, 3, 9, 11 and the phase). -/
theorem applyWrites_begin (rows cols : Byte) (font : Bool) (s : State) :
    applyWrites (beginMicros standard rows cols font) s = { s with
      functionFlags := some (functionFlagsAfterBegin rows font)
      rowOffsets := ⟨some 0x00, some 0x40, some cols, some (0x40 + cols)⟩
      controlFlags := some 0x04
      entryModeFlags := some 0x02
      phase := .begun } := by
  simp only [beginMicros, List.append_assoc, List.cons_append, List.nil_append, applyWrites_open, applyWrites_write,
    applyWrites_hold, applyWrites_xwr, applyWrites_w4, applyWrites_cmd, applyWrites_nil, FieldWrite.apply,
    bringUpFunctionFlags_standard, write_zero, write_one, write_two, write_three]
  simp [standard]

theorem perform_begin {s : State} {addr : Byte} {on : Bool} (cols rows : Byte) (font : Bool)
    (ha : s.i2cAddress = some addr) (hb : s.backlightFlag = some on) :
    perform standard (beginMicros standard rows cols font) s
      = { s.completed (beginEvents addr (0x20 ||| functionFlagsAfterBegin rows font) on) .done with
        functionFlags := some (functionFlagsAfterBegin rows font)
        rowOffsets := ⟨some 0x00, some 0x40, some cols, some (0x40 + cols)⟩
        controlFlags := some 0x04
        entryModeFlags := some 0x02
        phase := .begun } := by
  rw [perform, drain_writes (beginMicros_steps rows cols font) (s := accept s) ha hb, begin_events,
    bringUpFunctionFlags_standard, applyWrites_begin]
  rfl

/-! ## What an instruction answers, group by group -/

/-- `CONSTRUCT` is refused, or the block was idle in phase Unconstructed and the five fields are written (R110). -/
theorem exec_construct_cases {addr cols rows : Byte} {s t : State} (h : exec (.construct addr cols rows) s = .next t) :
    (∃ r, t = refuse r s) ∨ (s.phase = .unconstructed ∧ rows ≠ 0 ∧ t = { s.completed [] .done with
      i2cAddress := some addr, columns := some cols, rows := some rows
      charSizeFlag := some false, backlightFlag := some true, phase := .constructed }) := by
  obtain ⟨r, rfl⟩ | ⟨hadm, p, hp, rfl⟩ := exec_cases h
  · exact .inl ⟨r, rfl⟩
  · obtain ⟨-, hph, hrows⟩ := constructAdmission_eq_none.mp hadm
    cases hp
    exact .inr ⟨hph, hrows, perform_construct addr cols rows s⟩

theorem beginProgram_eq_some {c : Config} {s : State} {p : Program} (h : beginProgram c s = some p) :
    ∃ addr cols rows font on, s.i2cAddress = some addr ∧ s.columns = some cols ∧ s.rows = some rows
      ∧ s.charSizeFlag = some font ∧ s.backlightFlag = some on ∧ p = beginMicros c rows cols font := by
  unfold beginProgram at h
  split at h
  · next rows cols font hr hc hf =>
    obtain ⟨rfl, ⟨addr, ha⟩, on, hb⟩ := onBus_eq_some h
    exact ⟨addr, cols, rows, font, on, ha, hc, hr, hf, hb, rfl⟩
  · cases h

/-- `BEGIN` is refused, or the block was past phase Unconstructed and the twelve steps ran (R112). -/
theorem exec_begin_cases {s t : State} (h : exec .begin s = .next t) :
    (∃ r, t = refuse r s) ∨ (s.phase ≠ .unconstructed ∧ ∃ addr cols rows font on, s.columns = some cols
      ∧ s.rows = some rows ∧ s.charSizeFlag = some font
      ∧ t = { s.completed (beginEvents addr (0x20 ||| functionFlagsAfterBegin rows font) on) .done with
        functionFlags := some (functionFlagsAfterBegin rows font)
        rowOffsets := ⟨some 0x00, some 0x40, some cols, some (0x40 + cols)⟩
        controlFlags := some 0x04
        entryModeFlags := some 0x02
        phase := .begun }) := by
  obtain ⟨r, rfl⟩ | ⟨hadm, p, hp, rfl⟩ := exec_cases h
  · exact .inl ⟨r, rfl⟩
  · obtain ⟨addr, cols, rows, font, on, ha, hc, hr, hf, hb, rfl⟩ := beginProgram_eq_some hp
    exact .inr ⟨(admission_constructed_eq_none.mp hadm).2, addr, cols, rows, font, on, hc, hr, hf,
      perform_begin cols rows font ha hb⟩

/-- `BACKLIGHT` is refused, or the block was in phase Begun; the flag is set and one byte carries it out
(42_display_ops.md R123). -/
theorem exec_backlight_cases {on : Bool} {s t : State} (h : exec (.backlight on) s = .next t) :
    (∃ r, t = refuse r s) ∨ (s.phase = .begun ∧ ∃ addr,
      t = { s.completed [.txn addr (blBit on)] .done with backlightFlag := some on }) := by
  obtain ⟨r, rfl⟩ | ⟨hadm, p, hp, rfl⟩ := exec_cases h
  · exact .inl ⟨r, rfl⟩
  · obtain ⟨rfl, ⟨addr, ha⟩, -⟩ := onBus_eq_some hp
    exact .inr ⟨(admission_begun_eq_none.mp hadm).2, addr, perform_backlight on ha⟩

/-- The toggles of `control_flags`, each with its bit (42_display_ops.md R126 to R128). -/
def IsControlToggle (on : Bool) (i : Instr) (m : Byte) : Prop :=
  (i = .display on ∧ m = 0x04) ∨ (i = .cursor on ∧ m = 0x02) ∨ (i = .blink on ∧ m = 0x01)

/-- The toggles of `entry_mode_flags`, each with its bit (42_display_ops.md R131, R132). -/
def IsEntryToggle (on : Bool) (i : Instr) (m : Byte) : Prop :=
  (i = .textDir on ∧ m = 0x02) ∨ (i = .autoscroll on ∧ m = 0x01)

theorem IsControlToggle.exec_eq {on : Bool} {i : Instr} {m : Byte} (hi : IsControlToggle on i m) (s : State) :
    exec i s = serve (admission .begun s) (controlToggleProgram standard m on s) (perform standard) s := by
  rcases hi with ⟨rfl, rfl⟩ | ⟨rfl, rfl⟩ | ⟨rfl, rfl⟩ <;> rfl

theorem IsEntryToggle.exec_eq {on : Bool} {i : Instr} {m : Byte} (hi : IsEntryToggle on i m) (s : State) :
    exec i s = serve (admission .begun s) (entryToggleProgram standard m on s) (perform standard) s := by
  rcases hi with ⟨rfl, rfl⟩ | ⟨rfl, rfl⟩ <;> rfl

/-- A toggle of `control_flags` is refused, or the block was in phase Begun; the register takes its toggled value and
DISPLAYCONTROL carries it out (42_display_ops.md R124). -/
theorem IsControlToggle.cases {on : Bool} {i : Instr} {m : Byte} (hi : IsControlToggle on i m) {s t : State}
    (h : exec i s = .next t) :
    (∃ r, t = refuse r s) ∨ (s.phase = .begun ∧ ∃ es f, s.controlFlags = some f
      ∧ t = { s.completed es .done with controlFlags := some (toggled f m on) }) := by
  rw [hi.exec_eq] at h
  obtain ⟨r, rfl⟩ | ⟨hadm, p, hp, rfl⟩ := serve_cases h
  · exact .inl ⟨r, rfl⟩
  · refine .inr ⟨(admission_begun_eq_none.mp hadm).2, ?_⟩
    unfold controlToggleProgram at hp
    split at hp
    · next f hf =>
      obtain ⟨rfl, ⟨addr, ha⟩, bl, hb⟩ := onBus_eq_some hp
      exact ⟨_, f, hf, perform_write_cmd (.controlFlags (toggled f m on)) (standard.displayControl ||| toggled f m on)
        ⟨nofun, nofun⟩ ha hb⟩
    · cases hp

/-- The same for a toggle of `entry_mode_flags` and ENTRYMODESET. -/
theorem IsEntryToggle.cases {on : Bool} {i : Instr} {m : Byte} (hi : IsEntryToggle on i m) {s t : State}
    (h : exec i s = .next t) :
    (∃ r, t = refuse r s) ∨ (s.phase = .begun ∧ ∃ es f, s.entryModeFlags = some f
      ∧ t = { s.completed es .done with entryModeFlags := some (toggled f m on) }) := by
  rw [hi.exec_eq] at h
  obtain ⟨r, rfl⟩ | ⟨hadm, p, hp, rfl⟩ := serve_cases h
  · exact .inl ⟨r, rfl⟩
  · refine .inr ⟨(admission_begun_eq_none.mp hadm).2, ?_⟩
    unfold entryToggleProgram at hp
    split at hp
    · next f hf =>
      obtain ⟨rfl, ⟨addr, ha⟩, bl, hb⟩ := onBus_eq_some hp
      exact ⟨_, f, hf, perform_write_cmd (.entryModeFlags (toggled f m on)) (standard.entryModeSet ||| toggled f m on)
        ⟨nofun, nofun⟩ ha hb⟩
    · cases hp

/-- The instructions in their groups. -/
theorem instr_groups (i : Instr) :
    writesTraceOnly i = true ∨ (∃ a c r, i = .construct a c r) ∨ i = .begin ∨ (∃ on, i = .backlight on)
      ∨ (∃ on m, IsControlToggle on i m) ∨ ∃ on m, IsEntryToggle on i m := by
  cases i <;> simp [writesTraceOnly, IsControlToggle, IsEntryToggle]

/-! ## The phase (R22) -/

/-- `CONSTRUCT` takes the phase from Unconstructed to Constructed, `BEGIN` to Begun; nothing else changes it. -/
theorem exec_phase {i : Instr} {s t : State} (h : exec i s = .next t) :
    t.phase = s.phase ∨ (s.phase = .unconstructed ∧ t.phase = .constructed)
      ∨ (s.phase ≠ .unconstructed ∧ t.phase = .begun) := by
  by_cases hi : i = .begin ∨ ∃ a c r, i = .construct a c r
  · obtain rfl | ⟨a, c, r, rfl⟩ := hi
    · obtain ⟨r, rfl⟩ | ⟨hp, _, _, _, _, _, -, -, -, rfl⟩ := exec_begin_cases h
      · exact .inl rfl
      · exact .inr (.inr ⟨hp, rfl⟩)
    · obtain ⟨r, rfl⟩ | ⟨hp, -, rfl⟩ := exec_construct_cases h
      · exact .inl rfl
      · exact .inr (.inl ⟨hp, rfl⟩)
  · exact .inl ((exec_frame h).phase fun _ => mayWrite_eq_false mayWrite_phase hi)

/-! ## Frames (R24) -/

/-- Settles O43: none of these operations may write a field, and every instruction only appends events to the device. -/
theorem traceOnlyOperationsKeepTheRest : Obligations.TraceOnlyOperationsKeepTheRest := by
  intro i s t hi h
  obtain ⟨hdev, hph⟩ := exec_traceOnly_keeps hi h
  obtain ⟨hin, hports, htr⟩ := exec_ports h
  exact ⟨hdev, hph, hin, hports, htr⟩

theorem exec_printNull_trace {s t : State} (h : exec .printNull s = .next t) : t.trace = s.trace := by
  obtain ⟨r, rfl⟩ | ⟨-, p, hp, rfl⟩ := exec_cases h
  · rfl
  · cases hp
    rfl

/-- Settles O44: neither emits an event, and each may write only its own fields. -/
theorem silentOperationsStoreNothing : Obligations.SilentOperationsStoreNothing := by
  refine ⟨fun s t h => ?_, fun a c r s t h => ?_⟩
  · obtain ⟨hdev, hph⟩ := exec_traceOnly_keeps rfl h
    have htr := exec_printNull_trace h
    exact ⟨htr, hdev, hph, (exec_ports h).1, .of_trace_eq htr⟩
  · obtain ⟨htr, hin⟩ := exec_construct_trace h
    have f := exec_frame h
    exact ⟨htr, .of_trace_eq htr, f.functionFlags fun _ => rfl, f.controlFlags fun _ => rfl,
      f.entryModeFlags fun _ => rfl, f.rowOffsets fun _ _ => rfl, hin⟩

/-- A toggle leaves every bit outside its mask (42_display_ops.md R124). -/
theorem toggled_and_not_mask (f m : Byte) (on : Bool) : toggled f m on &&& ~~~m = f &&& ~~~m := by
  cases on
  · rw [toggled, if_neg Bool.false_ne_true, BitVec.and_assoc, BitVec.and_self]
  · rw [toggled, if_pos rfl, BitVec.and_or_distrib_right, BitVec.and_not_self]
    exact BitVec.or_zero

/-- A register whose value `v` became `toggled v m on`, as the statement about the toggles says it. -/
theorem toggled_register {x : Option Byte} {v : Byte} (hv : x = some v) (m : Byte) (on : Bool) :
    ∀ f g, x = some f → some (toggled v m on) = some g → g &&& ~~~m = f &&& ~~~m := by
  rintro f g hf ⟨⟩
  cases hv.symm.trans hf
  exact toggled_and_not_mask v m on

/-- A register that kept its value keeps each of its bits. -/
theorem kept_register (x : Option Byte) (m : Byte) :
    ∀ f g, x = some f → x = some g → g &&& ~~~m = f &&& ~~~m := by
  rintro f g rfl ⟨⟩
  rfl

/-- Settles O45: refused, a toggle changes no field; accepted, it writes the toggled value into its register alone. -/
theorem togglesChangeOneBit : Obligations.TogglesChangeOneBit := by
  refine fun on s t => ⟨fun i m hi h => ?_, fun i m hi h => ?_⟩
  · obtain ⟨hin, hports, htr⟩ := exec_ports h
    obtain ⟨r, rfl⟩ | ⟨-, es, v, hv, rfl⟩ := IsControlToggle.cases hi h
    · exact ⟨.refl s, kept_register s.controlFlags m, rfl, hin, hports, htr⟩
    · exact ⟨.refl s, toggled_register hv m on, rfl, hin, hports, htr⟩
  · obtain ⟨hin, hports, htr⟩ := exec_ports h
    obtain ⟨r, rfl⟩ | ⟨-, es, v, hv, rfl⟩ := IsEntryToggle.cases hi h
    · exact ⟨.refl s, kept_register s.entryModeFlags m, rfl, hin, hports, htr⟩
    · exact ⟨.refl s, toggled_register hv m on, rfl, hin, hports, htr⟩

/-- Settles O46: `BACKLIGHT` may write its flag alone, and `BEGIN` no field of `CONSTRUCT`'s. -/
theorem backlightAndBeginKeepTheRest : Obligations.BacklightAndBeginKeepTheRest := by
  refine ⟨fun on s t h => ?_, fun s t h => ?_⟩
  · obtain ⟨hin, hports, htr⟩ := exec_ports h
    obtain ⟨r, rfl⟩ | ⟨-, addr, rfl⟩ := exec_backlight_cases h
    · exact ⟨.refl s, rfl, hin, hports, htr⟩
    · exact ⟨.refl s, rfl, hin, hports, htr⟩
  · obtain ⟨hin, hports, htr⟩ := exec_ports h
    have f := exec_frame h
    exact ⟨f.i2cAddress fun _ => rfl, f.columns fun _ => rfl, f.rows fun _ => rfl, f.charSizeFlag fun _ => rfl,
      f.backlightFlag fun _ => rfl, hin, hports, htr⟩

/-! ## Rules about the whole machine -/

/-- Settles O47: were the instruction no writer of the field, the frame would keep it. -/
theorem onlyTheirWritersChangeFields : Obligations.OnlyTheirWritersChangeFields := by
  intro i s t h
  have f := exec_frame h
  refine ⟨fun hd => ?_, fun hd => ?_, fun hd => ?_, fun hd => ?_, fun hd => ?_, fun hd => ?_⟩ <;> by_contra hi
  · obtain ⟨h1, h2, h3, h4⟩ := exec_keeps_geometry hi h
    rcases hd with hd | hd | hd | hd
    · exact hd h1
    · exact hd h2
    · exact hd h3
    · exact hd h4
  · exact hd (f.backlightFlag fun _ => mayWrite_eq_false mayWrite_backlightFlag hi)
  · rcases hd with hd | hd
    · exact hd (f.functionFlags fun _ => mayWrite_eq_false mayWrite_functionFlags hi)
    · exact hd (f.rowOffsets fun _ _ => mayWrite_eq_false mayWrite_rowOffset hi)
  · exact hd (f.controlFlags fun _ => mayWrite_eq_false mayWrite_controlFlags hi)
  · exact hd (f.entryModeFlags fun _ => mayWrite_eq_false mayWrite_entryModeFlags hi)
  · exact hd (f.phase fun _ => mayWrite_eq_false mayWrite_phase hi)

/-- Settles O48: the one writer of these fields, `CONSTRUCT`, is refused past phase Unconstructed. -/
theorem geometryIsWrittenOnce : Obligations.GeometryIsWrittenOnce := by
  intro i s t hp h
  by_cases hi : ∃ a c r, i = .construct a c r
  · obtain ⟨a, c, r, rfl⟩ := hi
    obtain ⟨r', rfl⟩ | ⟨hu, -, -⟩ := exec_construct_cases h
    · exact ⟨rfl, rfl, rfl, rfl⟩
    · exact absurd hu hp
  · exact exec_keeps_geometry hi h

/-! ## What an accepted operation leaves of the record (R28, 60_exceptions.md R154) -/

/-- No step of an expansion touches the sticky bit, the recorded reason or the responses. -/
theorem run_record (c : Config) (m : Micro) (s : State) :
    (m.run c s).refused = s.refused ∧ (m.run c s).lastRefusal = s.lastRefusal
      ∧ (m.run c s).responses = s.responses := by
  cases m with
  | xwr d => simp only [Micro.run, transmit]; split <;> exact ⟨rfl, rfl, rfl⟩
  | write w => exact ⟨apply_refused s w, apply_lastRefusal s w, apply_responses s w⟩
  | openChannel => exact ⟨rfl, rfl, rfl⟩
  | hold h => exact ⟨rfl, rfl, rfl⟩
  | startCount => exact ⟨rfl, rfl, rfl⟩
  | tally b => exact ⟨rfl, rfl, rfl⟩

/-- An operation run whole keeps the refusal's record and gives one response. -/
theorem perform_record (c : Config) (p : Program) (s : State) :
    (perform c p s).refused = s.refused ∧ (perform c p s).lastRefusal = s.lastRefusal
      ∧ ∃ r, (perform c p s).responses = s.responses ++ [r] := by
  obtain ⟨h1, h2, h3⟩ := drain_induct (c := c) (p := p) (s := accept s)
    (fun u => u.refused = s.refused ∧ u.lastRefusal = s.lastRefusal ∧ u.responses = s.responses)
    (fun m _ u ⟨g1, g2, g3⟩ =>
      have ⟨k1, k2, k3⟩ := run_record c m u
      ⟨k1.trans g1, k2.trans g2, k3.trans g3⟩) ⟨rfl, rfl, rfl⟩
  exact ⟨h1, h2, _, congrArg (· ++ _) h3⟩

theorem exec_keeps_refused {i : Instr} {s t : State} (h : exec i s = .next t) (hs : s.refused = true) :
    t.refused = true := by
  obtain ⟨r, rfl⟩ | ⟨-, p, -, rfl⟩ := exec_cases h
  · rfl
  · exact (perform_record standard p s).1.trans hs

/-- Settles O49: waiting and refusing change neither trace nor phase, and an instruction only appends, keeps the sticky
bit, and raises the phase if it changes it. -/
theorem stepsOnlyAppendAndNeverLower : Obligations.StepsOnlyAppendAndNeverLower := by
  intro s t hb h
  obtain ⟨-, rfl⟩ | ⟨later, rfl⟩ | ⟨i, later, he⟩ := step_cases hb h
  · exact ⟨⟨[], List.append_nil _⟩, id, id, id⟩
  · exact ⟨⟨[], List.append_nil _⟩, fun _ => rfl, id, id⟩
  · refine ⟨(exec_ports he).2.2, fun hr => exec_keeps_refused he hr, ?_⟩
    rcases exec_phase he with hp | ⟨hu, hc⟩ | ⟨-, hg⟩
    · exact ⟨fun hs => hp ▸ hs, fun hs => hp.trans hs⟩
    · exact ⟨fun hs => absurd hu hs, fun hs => nomatch hu.symm.trans hs⟩
    · exact ⟨fun _ => by rw [hg]; decide, fun _ => hg⟩

/-- Settles O52: `BACKLIGHT` sends one byte with its new flag in bit 3; what another operation of these tiers sends is a
composed trace, with the flag it found and leaves. -/
theorem composedBytesCarryTheBacklight : Obligations.ComposedBytesCarryTheBacklight := by
  intro i s t es a b hi h htr hm
  by_cases hbl : ∃ on, i = .backlight on
  · obtain ⟨on, rfl⟩ := hbl
    obtain ⟨r, rfl⟩ | ⟨-, addr, rfl⟩ := exec_backlight_cases h
    · cases List.self_eq_append_right.mp htr
      cases hm
    · cases List.append_cancel_left htr
      cases List.mem_singleton.mp hm
      cases on <;> rfl
  · obtain ⟨es', htr', hes⟩ := exec_composed hi (fun on ho => hbl ⟨on, ho⟩) h
    cases List.append_cancel_left (htr'.symm.trans htr)
    obtain rfl | ⟨addr, on, -, -, ht, hcomp⟩ := hes
    · cases hm
    · rw [ht, (hcomp.txn hm).2.2]

/-! ## The invariant (R17 to R23, R35) -/

/-- Settles O58: nothing holds a value, nothing was sent, nothing was refused. -/
theorem resetMeetsTheInvariant : Obligations.ResetMeetsTheInvariant where
  idle := ⟨rfl, rfl, rfl, rfl⟩
  unconstructed _ := ⟨⟨rfl, rfl, rfl, rfl, rfl⟩, ⟨rfl, rfl, rfl, rfl⟩, rfl⟩
  constructed hp := nomatch hp
  begun hp := nomatch hp
  oneDevice _ _ hm := nomatch hm
  refusedRecorded := rfl

theorem SameDevice.configured {s t : State} (h : SameDevice s t) (hc : s.Configured) : t.Configured := by
  obtain ⟨h1, h2, h3, h4, h5, -⟩ := h
  rwa [State.Configured, h1, h2, h3, h4, h5]

theorem SameDevice.populated {s t : State} (h : SameDevice s t) (hp : s.Populated) : t.Populated := by
  obtain ⟨-, h2, h3, h4, -, h6, h7, h8, h9⟩ := h
  rwa [State.Populated, h2, h3, h4, h6, h7, h8, h9]

namespace Inv
variable {s t : State} {i : Instr}

theorem withInbox (hs : Inv s) (later : List Presented) : Inv { s with inbox := later } :=
  ⟨hs.idle, hs.unconstructed, hs.constructed, hs.begun, hs.oneDevice, hs.refusedRecorded⟩

theorem refuse (hs : Inv s) (r : RefusalReason) : Inv (refuse r s) :=
  ⟨hs.idle, hs.unconstructed, hs.constructed, hs.begun, hs.oneDevice, rfl⟩

theorem configured (hs : Inv s) (hp : s.phase ≠ .unconstructed) : s.Configured := by
  cases h : s.phase with
  | unconstructed => exact absurd h hp
  | constructed => exact (hs.constructed h).1
  | begun => exact (hs.begun h).1

/-- An address, once held, is kept: `CONSTRUCT` writes it only where there is none. -/
theorem exec_keeps_address (hs : Inv s) (h : exec i s = .next t) {a : Byte} (ha : s.i2cAddress = some a) :
    t.i2cAddress = some a := by
  by_cases hi : ∃ a c r, i = .construct a c r
  · obtain ⟨a', c, r, rfl⟩ := hi
    obtain ⟨r', rfl⟩ | ⟨hu, -, -⟩ := exec_construct_cases h
    · exact ha
    · cases (hs.unconstructed hu).1.1.symm.trans ha
  · exact (exec_keeps_geometry hi h).1.trans ha

/-- What every instruction keeps of the invariant; what is left to show concerns the new phase. -/
theorem of_exec (hs : Inv s) (h : exec i s = .next t)
    (hu : t.phase = .unconstructed → t.Unconfigured ∧ t.NotPopulated ∧ t.trace = [])
    (hc : t.phase = .constructed → t.Configured ∧ t.NotPopulated ∧ t.trace = [])
    (hb : t.phase = .begun → t.Configured ∧ t.Populated ∧ t.trace.head? = some .openChannel) : Inv t := by
  obtain ⟨es, htr, hdev, -⟩ := exec_appends h
  have hone : ∀ a b, Event.txn a b ∈ t.trace → t.i2cAddress = some a := by
    intro a b hm
    rw [htr, List.mem_append] at hm
    exact hs.exec_keeps_address h (hm.elim (hs.oneDevice a b) (hdev a b))
  obtain ⟨r, rfl⟩ | ⟨-, p, -, rfl⟩ := exec_cases h
  · exact hs.refuse r
  · obtain ⟨hr, hl, -⟩ := perform_record standard p s
    exact ⟨⟨rfl, rfl, rfl, rfl⟩, hu, hc, hb, hone, by rw [hr, hl, hs.refusedRecorded]⟩

/-- An operation that stays in phase Begun keeps the channel's opening at the head of the trace. -/
theorem of_exec_begun (hs : Inv s) (h : exec i s = .next t) (hp : s.phase = .begun) (htp : t.phase = .begun)
    (hconf : t.Configured) (hpop : t.Populated) : Inv t := by
  refine hs.of_exec h (fun hu => nomatch htp.symm.trans hu) (fun hc => nomatch htp.symm.trans hc)
    fun _ => ⟨hconf, hpop, ?_⟩
  obtain ⟨es, htr, -⟩ := exec_appends h
  obtain ⟨-, -, hhead⟩ := hs.begun hp
  rw [htr, List.head?_append, hhead, Option.some_or]

end Inv

/-- An operation that writes only the trace is refused, or the block was in phase Begun and every field stays. -/
theorem exec_traceOnly_cases {i : Instr} {s t : State} (hi : writesTraceOnly i = true) (h : exec i s = .next t) :
    (∃ r, t = refuse r s) ∨ (s.phase = .begun ∧ SameDevice s t ∧ t.phase = s.phase) := by
  obtain ⟨r, rfl⟩ | ⟨hadm, -⟩ := exec_cases h
  · exact .inl ⟨r, rfl⟩
  · have : refusalOf i s = admission .begun s := by cases i <;> first | rfl | cases hi
    exact .inr ⟨(admission_begun_eq_none.mp (this ▸ hadm)).2, exec_traceOnly_keeps hi h⟩

/-- Bits that neither the register nor the toggle's mask has stay clear. -/
theorem toggled_and_eq_zero {f m k : Byte} (hf : f &&& k = 0) (hm : m &&& k = 0) (on : Bool) :
    toggled f m on &&& k = 0 := by
  cases on
  · rw [toggled, if_neg Bool.false_ne_true, BitVec.and_assoc, BitVec.and_comm (~~~m), ← BitVec.and_assoc, hf]
    exact BitVec.zero_and
  · rw [toggled, if_pos rfl, BitVec.and_or_distrib_right, hf, hm]
    exact BitVec.or_zero

theorem IsControlToggle.mask_legal {on : Bool} {i : Instr} {m : Byte} (hi : IsControlToggle on i m) :
    m &&& 0xF8 = 0 := by
  rcases hi with ⟨-, rfl⟩ | ⟨-, rfl⟩ | ⟨-, rfl⟩ <;> rfl

theorem IsEntryToggle.mask_legal {on : Bool} {i : Instr} {m : Byte} (hi : IsEntryToggle on i m) :
    m &&& 0xFC = 0 := by
  rcases hi with ⟨-, rfl⟩ | ⟨-, rfl⟩ <;> rfl

section
variable {i : Instr} {s t : State}

theorem exec_construct_keeps_inv {a c r : Byte} (hs : Inv s) (h : exec (.construct a c r) s = .next t) : Inv t := by
  obtain ⟨r', rfl⟩ | ⟨hu, hrows, rfl⟩ := exec_construct_cases h
  · exact hs.refuse r'
  · obtain ⟨-, hnot, htr⟩ := hs.unconstructed hu
    refine hs.of_exec h nofun (fun _ => ⟨⟨⟨a, rfl⟩, ⟨c, rfl⟩, ⟨r, rfl, hrows⟩, ⟨_, rfl⟩, _, rfl⟩, hnot, ?_⟩) nofun
    rw [completed_trace, htr, List.append_nil]

/-- A first `BEGIN` opens the channel on an empty trace; a second one runs behind the first one's opening. -/
theorem exec_begin_keeps_inv (hs : Inv s) (h : exec .begin s = .next t) : Inv t := by
  obtain ⟨r, rfl⟩ | ⟨hp, addr, cols, rows, font, on, hc, hr, hf, rfl⟩ := exec_begin_cases h
  · exact hs.refuse r
  · refine hs.of_exec h nofun nofun fun _ => ⟨hs.configured hp,
      ⟨⟨rows, font, hr, hf, rfl⟩, ⟨_, rfl, rfl⟩, ⟨_, rfl, rfl⟩, cols, hc, rfl⟩, ?_⟩
    rw [completed_trace, List.head?_append]
    cases hph : s.phase with
    | unconstructed => exact absurd hph hp
    | constructed => rw [(hs.constructed hph).2.2]; rfl
    | begun => rw [(hs.begun hph).2.2, Option.some_or]

theorem exec_traceOnly_keeps_inv (hs : Inv s) (hi : writesTraceOnly i = true) (h : exec i s = .next t) : Inv t := by
  obtain ⟨r, rfl⟩ | ⟨hp, hdev, htp⟩ := exec_traceOnly_cases hi h
  · exact hs.refuse r
  · obtain ⟨hconf, hpop, -⟩ := hs.begun hp
    exact hs.of_exec_begun h hp (htp.trans hp) (hdev.configured hconf) (hdev.populated hpop)

theorem exec_backlight_keeps_inv {on : Bool} (hs : Inv s) (h : exec (.backlight on) s = .next t) : Inv t := by
  obtain ⟨r, rfl⟩ | ⟨hp, addr, rfl⟩ := exec_backlight_cases h
  · exact hs.refuse r
  · obtain ⟨⟨ha, hc, hr, hf, -⟩, hpop, -⟩ := hs.begun hp
    exact hs.of_exec_begun h hp hp ⟨ha, hc, hr, hf, on, rfl⟩ hpop

theorem exec_controlToggle_keeps_inv {on : Bool} {m : Byte} (hs : Inv s) (hi : IsControlToggle on i m)
    (h : exec i s = .next t) : Inv t := by
  obtain ⟨r, rfl⟩ | ⟨hp, es, f, hf, rfl⟩ := hi.cases h
  · exact hs.refuse r
  · obtain ⟨hconf, ⟨hfun, ⟨v, hv, hlegal⟩, hentry, hrow⟩, -⟩ := hs.begun hp
    cases hf.symm.trans hv
    exact hs.of_exec_begun h hp hp hconf
      ⟨hfun, ⟨_, rfl, toggled_and_eq_zero hlegal hi.mask_legal on⟩, hentry, hrow⟩

theorem exec_entryToggle_keeps_inv {on : Bool} {m : Byte} (hs : Inv s) (hi : IsEntryToggle on i m)
    (h : exec i s = .next t) : Inv t := by
  obtain ⟨r, rfl⟩ | ⟨hp, es, f, hf, rfl⟩ := hi.cases h
  · exact hs.refuse r
  · obtain ⟨hconf, ⟨hfun, hcontrol, ⟨v, hv, hlegal⟩, hrow⟩, -⟩ := hs.begun hp
    cases hf.symm.trans hv
    exact hs.of_exec_begun h hp hp hconf
      ⟨hfun, hcontrol, ⟨_, rfl, toggled_and_eq_zero hlegal hi.mask_legal on⟩, hrow⟩

/-- Every instruction keeps the invariant, group by group. -/
theorem exec_keeps_inv (hs : Inv s) (h : exec i s = .next t) : Inv t := by
  obtain hi | ⟨a, c, r, rfl⟩ | rfl | ⟨on, rfl⟩ | ⟨on, m, hi⟩ | ⟨on, m, hi⟩ := instr_groups i
  · exact exec_traceOnly_keeps_inv hs hi h
  · exact exec_construct_keeps_inv hs h
  · exact exec_begin_keeps_inv hs h
  · exact exec_backlight_keeps_inv hs h
  · exact exec_controlToggle_keeps_inv hs hi h
  · exact exec_entryToggle_keeps_inv hs hi h

end

/-- Settles O59: the inbox is no part of the invariant, a refusal keeps it, and so does every instruction. -/
theorem stepsKeepTheInvariant : Obligations.StepsKeepTheInvariant := by
  intro s t hs h
  obtain ⟨-, rfl⟩ | ⟨later, rfl⟩ | ⟨i, later, he⟩ := step_cases hs.idle.1 h
  · exact hs
  · exact (hs.withInbox later).refuse _
  · exact exec_keeps_inv (hs.withInbox later) he

/-! ## Where no refusal condition holds (R23, 60_exceptions.md R153) -/

/-- The machine's admission is the table of 60_exceptions.md R153, tested in R154's order. -/
theorem refusalOf_eq_reasonByTable (i : Instr) (s : State) : refusalOf i s = reasonByTable i s := by
  have hother : ∀ j : Instr, constructRows j = none → j ≠ .begin → admission .begun s = reasonByTable j s := by
    intro j hj hb
    cases hbusy : s.busy <;> cases hp : s.phase <;> simp [reasonByTable, admission, phaseRefusal, hbusy, hp, hj, hb]
  cases i
  case construct a c r =>
    cases hbusy : s.busy <;> cases hp : s.phase <;>
      simp [refusalOf, constructAdmission, admission, phaseRefusal, reasonByTable, constructRows, hbusy, hp]
  case begin =>
    cases hbusy : s.busy <;> cases hp : s.phase <;>
      simp [refusalOf, admission, phaseRefusal, reasonByTable, constructRows, hbusy, hp]
  all_goals exact hother _ rfl nofun

/-- `min(row, 3, rows - 1)` (42_display_ops.md R141). -/
theorem clampRow_standard (rows row : Byte) : clampRow standard rows row = cursorRow rows row := by
  simp only [clampRow, cursorRow, show standard.nRowOffsets = 4 from rfl]
  split_ifs <;> omega

theorem cursorRow_cases (rows row : Byte) :
    cursorRow rows row = 0 ∨ cursorRow rows row = 1 ∨ cursorRow rows row = 2 ∨ cursorRow rows row = 3 := by
  unfold cursorRow
  split_ifs <;> omega

section
variable {s : State}

theorem onBus_of_configured (hc : s.Configured) (p : Program) : s.onBus p = some p := by
  obtain ⟨⟨a, ha⟩, -, -, -, b, hb⟩ := hc
  simp [State.onBus, ha, hb]

theorem beginProgram_of_configured (hc : s.Configured) : ∃ p, beginProgram standard s = some p := by
  have hbus := onBus_of_configured hc
  obtain ⟨-, ⟨cols, hcols⟩, ⟨rows, hrows, -⟩, ⟨font, hfont⟩, -⟩ := hc
  exact ⟨_, by simp only [beginProgram, hrows, hcols, hfont]; exact hbus _⟩

theorem controlToggleProgram_of_begun (hc : s.Configured) (hp : s.Populated) (m : Byte) (on : Bool) :
    ∃ p, controlToggleProgram standard m on s = some p := by
  obtain ⟨-, ⟨v, hv, -⟩, -, -⟩ := hp
  exact ⟨_, by simp only [controlToggleProgram, hv]; exact onBus_of_configured hc _⟩

theorem entryToggleProgram_of_begun (hc : s.Configured) (hp : s.Populated) (m : Byte) (on : Bool) :
    ∃ p, entryToggleProgram standard m on s = some p := by
  obtain ⟨-, -, ⟨v, hv, -⟩, -⟩ := hp
  exact ⟨_, by simp only [entryToggleProgram, hv]; exact onBus_of_configured hc _⟩

theorem setCursorProgram_of_read {rows offset : Byte} (col row : Byte) (hr : s.rows = some rows)
    (ho : s.rowOffsets.read (cursorRow rows row) = some offset) :
    setCursorProgram standard col row s = s.onBus (cmdMicros standard (ddramCommand standard col offset)) := by
  simp only [setCursorProgram, hr, clampRow_standard, ho]

theorem setCursorProgram_of_begun (hc : s.Configured) (hp : s.Populated) (col row : Byte) :
    ∃ p, setCursorProgram standard col row s = some p := by
  have hbus := onBus_of_configured hc
  obtain ⟨-, -, ⟨rows, hr, -⟩, -⟩ := hc
  obtain ⟨-, -, -, c, -, ho⟩ := hp
  have hread : ∃ offset, s.rowOffsets.read (cursorRow rows row) = some offset := by
    rw [ho]
    rcases cursorRow_cases rows row with h | h | h | h <;> rw [h] <;> exact ⟨_, rfl⟩
  obtain ⟨offset, hoff⟩ := hread
  exact ⟨_, (setCursorProgram_of_read col row hr hoff).trans (hbus _)⟩

/-- Where every field holds a value, every instruction has its expansion (R23). -/
theorem programOf_of_begun (hc : s.Configured) (hp : s.Populated) (i : Instr) :
    ∃ p, programOf standard i s = some p := by
  cases i
  case construct => exact ⟨_, rfl⟩
  case printNull => exact ⟨_, rfl⟩
  case begin => exact beginProgram_of_configured hc
  case display on => exact controlToggleProgram_of_begun hc hp _ on
  case cursor on => exact controlToggleProgram_of_begun hc hp _ on
  case blink on => exact controlToggleProgram_of_begun hc hp _ on
  case textDir on => exact entryToggleProgram_of_begun hc hp _ on
  case autoscroll on => exact entryToggleProgram_of_begun hc hp _ on
  case setCursor col row => exact setCursorProgram_of_begun hc hp col row
  all_goals exact ⟨_, onBus_of_configured hc _⟩

/-- No admitted operation reads a field without a value (R23), so every one has its expansion. -/
theorem programOf_of_admitted {i : Instr} (hs : Inv s) (hadm : refusalOf i s = none) :
    ∃ p, programOf standard i s = some p := by
  by_cases hp : s.phase = .begun
  · obtain ⟨hconf, hpop, -⟩ := hs.begun hp
    exact programOf_of_begun hconf hpop i
  · cases i
    case construct => exact ⟨_, rfl⟩
    case begin => exact beginProgram_of_configured (hs.configured (admission_constructed_eq_none.mp hadm).2)
    all_goals exact absurd (admission_begun_eq_none.mp hadm).2 hp

end

/-- Settles O13: the machine admits what the table does not refuse, the expansion exists, and running it whole keeps the
refusal's record and answers. -/
theorem execCompletesWithoutAReason : Obligations.ExecCompletesWithoutAReason := by
  intro i s hs hreason
  have hadm : refusalOf i s = none := (refusalOf_eq_reasonByTable i s).trans hreason
  obtain ⟨p, hp⟩ := programOf_of_admitted hs hadm
  obtain ⟨hrefused, hlast, r, hresp⟩ := perform_record standard p s
  refine ⟨perform standard p s, r, ?_, hrefused, hlast, hresp, rfl⟩
  rw [exec_eq_execWith, execWith, hadm, hp, serve_accepted]

/-! ## The four lines (R20, R44) -/

/-- `SETCURSOR` in a ready state that has the clamped row's offset (42_display_ops.md R141). -/
theorem exec_setCursor_of_read {s : State} {addr rows offset : Byte} {on : Bool} (col row : Byte)
    (h : s.Ready addr on) (hr : s.rows = some rows) (ho : s.rowOffsets.read (cursorRow rows row) = some offset) :
    exec (.setCursor col row) s
      = .next (s.completed (byteFrame addr (0x80 ||| (col + offset)) false on) .done) := by
  have hserve := serve_bus_of_ready (c := standard) h
    (sendMicros_isBus standard (ddramCommand standard col offset) .command)
  rw [send_events] at hserve
  calc exec (.setCursor col row) s
      = serve (admission .begun s) (setCursorProgram standard col row s) (perform standard) s := rfl
    _ = .next (s.completed (byteFrame addr (0x80 ||| (col + offset)) false on) .done) := by
      rw [setCursorProgram_of_read col row hr ho]
      exact hserve

/-- Settles O35: the clamped row is one of the four, and `BEGIN` has left each one's offset. -/
theorem setCursorAddressesTheLines : Obligations.SetCursorAddressesTheLines := by
  intro col row s hs hp
  obtain ⟨⟨⟨addr, ha⟩, -, ⟨rows, hr, -⟩, -, on, hb⟩, ⟨-, -, -, cols, hc, ho⟩, -⟩ := hs.begun hp
  refine ⟨addr, on, cols, rows, ha, hb, hc, hr, ?_⟩
  have key := fun offset => exec_setCursor_of_read (offset := offset) col row ⟨hp, hs.idle.1, ha, hb⟩ hr
  rw [ho] at key
  rcases cursorRow_cases rows row with h | h | h | h <;> rw [h] at key ⊢ <;> exact key _ rfl

/-! ## Requests and a block in progress (R25) -/

theorem fetchBy_nil {dec : Presented → Decoded} {s : State} (hi : s.inbox = []) :
    fetchBy dec s = if s.busy then .goOn else .idle := by
  simp only [fetchBy, hi]

theorem fetchBy_busy {dec : Presented → Decoded} {s : State} {p : Presented} {later : List Presented}
    (hb : s.busy = true) (hi : s.inbox = p :: later) :
    fetchBy dec s = .refuse .busy { s with inbox := later } := by
  simp only [fetchBy, hi, hb, if_true]

/-- Settles O10: the fetch of a busy block refuses what is presented. -/
theorem requestsWhileBusyAreRefused : Obligations.RequestsWhileBusyAreRefused := by
  intro s p later hb hi
  rw [step, fetch, fetchBy_busy hb hi]
  rfl

/-- Settles O11: with nothing presented the fetch of an idle block is idle and that of a busy one goes on. -/
theorem nothingPresentedWaitsOrGoesOn : Obligations.NothingPresentedWaitsOrGoesOn := by
  intro s hi
  refine ⟨fun hb => ?_, fun hb => ?_⟩ <;> rw [step, fetch, fetchBy_nil hi, hb] <;> rfl

/-! ## Event by event (R25, R26) -/

/-- A step of an expansion emits one event and nothing else, or none at all. -/
theorem run_emits_or_silent (c : Config) (m : Micro) (s : State) :
    (∃ e, m.run c s = emit e s) ∨ ((m.run c s).trace = s.trace ∧ (m.run c s).upc = s.upc) := by
  cases m with
  | xwr d =>
    simp only [Micro.run, transmit]
    split
    · exact .inl ⟨_, rfl⟩
    · exact .inr ⟨rfl, rfl⟩
  | write w => exact .inr ⟨apply_trace s w, apply_upc s w⟩
  | openChannel => exact .inl ⟨_, rfl⟩
  | hold h => exact .inl ⟨_, rfl⟩
  | startCount => exact .inr ⟨rfl, rfl⟩
  | tally b => exact .inr ⟨rfl, rfl⟩

/-- Settles O56: with nothing left the move completes the operation; else it drops what is left after a failed write, or
runs one step. -/
theorem sequencerPositionCountsEvents : Obligations.SequencerPositionCountsEvents := by
  intro c s hb t
  cases hr : s.running with
  | nil =>
    have ht : t = finish s := by simp only [t, tick, hr]
    exact .inr (.inr ⟨rfl, by rw [ht]; exact ⟨rfl, rfl, rfl⟩⟩)
  | cons m rest =>
    have ht : t = if m.stops c s then { s with running := [] } else { m.run c s with running := rest } := by
      rw [← tick_cons, ← hr]
    have hbusy : (m.run c s).busy = true := (run_busy_inbox c m s).1.trans hb
    by_cases hs : m.stops c s = true
    · rw [ht, if_pos hs]
      exact .inl ⟨hb, rfl, rfl⟩
    · rw [ht, if_neg hs]
      obtain ⟨e, he⟩ | ⟨htr, hupc⟩ := run_emits_or_silent c m s
      · exact .inr (.inl ⟨hbusy, ⟨e, by rw [he]; rfl⟩, by rw [he]; rfl⟩)
      · exact .inl ⟨hbusy, htr, hupc⟩

/-- The event-by-event block serves what an idle block is presented alone by starting it. -/
theorem eventStep_run {c : Config} {s : State} {p : Presented} {i : Instr} (hb : s.busy = false)
    (hi : s.inbox = [p]) (hd : decodeWith c p = .ok (i, [])) :
    eventStep c s = serve (refusalOf i { s with inbox := [] }) (programOf c i { s with inbox := [] }) start
      { s with inbox := [] } := by
  have hf : fetchWith c s = .run i { s with inbox := [] } := fetchBy_run hb hi hd
  simp only [eventStep, hf]

theorem eventSteps_succ {c : Config} {s t : State} (n : Nat) (h : eventStep c s = .next t) :
    eventSteps c (n + 1) s = eventSteps c n t := by
  rw [eventSteps, h]

/-- Settles O57: a refusal is one move of both; an accepted operation is started by one move, and the moves after it
run and complete it. -/
theorem eventStepsReachTheWholeOperation : Obligations.EventStepsReachTheWholeOperation := by
  intro c s t p i hb hi hd h
  have hstep := eventStep_run hb hi hd
  unfold execWith at h
  cases hadm : refusalOf i { s with inbox := [] } with
  | some r =>
    rw [hadm, serve_refused] at h hstep
    exact ⟨1, (eventSteps_succ 0 hstep).trans h⟩
  | none =>
    rw [hadm] at h hstep
    cases hp : programOf c i { s with inbox := [] } with
    | none =>
      rw [hp, serve_unwritten] at h hstep
      exact ⟨1, (eventSteps_succ 0 hstep).trans h⟩
    | some q =>
      rw [hp, serve_accepted] at h hstep
      obtain ⟨n, hn⟩ := eventSteps_drain c q (s := accept { s with inbox := [] }) rfl rfl
      exact ⟨n + 1, (eventSteps_succ n hstep).trans (hn.trans h)⟩

end Sys2Proof.Machine
end

section
/-! SUPPORT. Proofs of the statements of 20_memory.md: where the transactions go, what the composed bytes never raise,
and what a downstream controller latches from a nibble frame and from a first `BEGIN`. -/

namespace Sys2Proof.Machine

/-! ## The bytes on the bus (R41, R43, R46) -/

/-- Settles O50: what an instruction appends to the trace goes to the device. -/
theorem transactionsGoToTheDevice : Obligations.TransactionsGoToTheDevice := by
  intro i s t es a b h htr hm
  obtain ⟨es', htr', hdev, -⟩ := exec_appends h
  cases List.append_cancel_left (htr'.symm.trans htr)
  exact hdev a b hm

/-- What an instruction of tiers 2 and 3 emits, `BACKLIGHT` included: nothing, one raw byte of the backlight alone, or a
composed trace; the backlight is the one the instruction leaves. -/
theorem exec_composes_events {i : Instr} {s t : State} {es : List Event} (hi : composes i = true)
    (h : exec i s = .next t) (htr : t.trace = s.trace ++ es) :
    es = [] ∨ ∃ addr on, t.backlightFlag = some on ∧ (es = [.txn addr (blBit on)] ∨ Composed addr on es) := by
  by_cases hbl : ∃ on, i = .backlight on
  · obtain ⟨on, rfl⟩ := hbl
    obtain ⟨r, rfl⟩ | ⟨-, addr, rfl⟩ := exec_backlight_cases h
    · exact .inl (List.self_eq_append_right.mp htr)
    · exact .inr ⟨addr, on, rfl, .inl (List.append_cancel_left htr).symm⟩
  · obtain ⟨es', htr', hes⟩ := exec_composed hi (fun on ho => hbl ⟨on, ho⟩) h
    obtain rfl := List.append_cancel_left (htr'.symm.trans htr)
    exact hes.imp_right fun ⟨addr, on, _, _, ht, hcomp⟩ => ⟨addr, on, ht, .inr hcomp⟩

/-- Settles O51: neither the backlight alone nor a byte of a composed trace has bit 1 set. -/
theorem composedBytesNeverRead : Obligations.ComposedBytesNeverRead := by
  intro i s t es a b hi h htr hm
  obtain rfl | ⟨addr, on, -, rfl | hcomp⟩ := exec_composes_events hi h htr
  · cases hm
  · cases List.mem_singleton.mp hm
    cases on <;> rfl
  · exact (hcomp.txn hm).2.1

/-! ## What a piece of a trace latches (R52) -/

/-- The enable line is low after this byte, or nothing was sent yet. -/
def EnableLow (p : Option Byte) : Prop :=
  ∀ b, p = some b → b &&& 0x04 = 0

/-- Started with enable low, these events latch exactly `ls` and leave enable low. -/
def LatchesTo (es : List Event) (ls : List Latch) : Prop :=
  ∀ p, EnableLow p → latchesFrom standard p (txnBytes es) = ls ∧ EnableLow ((txnBytes es).getLast?.or p)

/-- The two latches of a byte frame, the high nibble's first. -/
def byteLatches (v : Byte) (rs : Bool) : List Latch :=
  [.nibble (v.extractLsb' 4 4) rs, .nibble (v.extractLsb' 0 4) rs]

theorem EnableLow.none : EnableLow none := nofun

theorem EnableLow.some {b : Byte} (h : b &&& 0x04 = 0) : EnableLow (some b) := by
  rintro _ ⟨⟩
  exact h

/-- No byte latches anything where enable was low before it. -/
theorem latchOf_of_enable_low {p b : Byte} (hp : p &&& 0x04 = 0) : latchOf standard p b = [] := by
  have : p &&& standard.enMask = 0 := hp
  simp [latchOf, this]

namespace LatchesTo
variable {es fs : List Event} {ls ms : List Latch}

/-- Latches of consecutive pieces are those of each in turn. -/
theorem append (h : LatchesTo es ls) (g : LatchesTo fs ms) : LatchesTo (es ++ fs) (ls ++ ms) := by
  intro p hp
  obtain ⟨hls, hlow⟩ := h p hp
  obtain ⟨hms, hlow'⟩ := g _ hlow
  rw [txnBytes_append, latchesFrom_append, hls, hms, List.getLast?_append, Option.or_assoc]
  exact ⟨rfl, hlow'⟩

/-- Behind a trace that leaves enable low, the piece adds its latches. -/
theorem latches_append (h : LatchesTo fs ms) (hlow : EnableLow (txnBytes es).getLast?) :
    latches standard (es ++ fs) = latches standard es ++ ms := by
  rw [Machine.latches_append, (h _ hlow).1]

/-- On an empty trace. -/
theorem latches (h : LatchesTo es ls) : latches standard es = ls :=
  (h none .none).1

theorem delay (m : Option Nat) (u : Nat) : LatchesTo [.delay m u] [] :=
  fun p hp => ⟨latchesFrom_nil standard p, hp⟩

theorem channel : LatchesTo [.openChannel] [] :=
  fun p hp => ⟨latchesFrom_nil standard p, hp⟩

/-- A raw byte with enable clear. -/
theorem raw (addr : Byte) {b : Byte} (hb : b &&& 0x04 = 0) : LatchesTo [.txn addr b] [] := by
  refine fun p hp => ⟨?_, .some hb⟩
  cases p with
  | none => rfl
  | some q => exact List.append_eq_nil_iff.mpr ⟨latchOf_of_enable_low (hp q rfl), rfl⟩

theorem half (addr : Byte) (n : Nibble) (rs on : Bool) : LatchesTo (halfFrame addr n rs on) [.nibble n rs] := by
  refine fun p hp => ⟨halfFrame_latch addr n rs on hp, ?_⟩
  rw [halfFrame_last, Option.some_or]
  exact .some (xbyteOf_enable_low n rs on)

theorem byte (addr v : Byte) (rs on : Bool) : LatchesTo (byteFrame addr v rs on) (byteLatches v rs) :=
  (half addr _ rs on).append (half addr _ rs on)

end LatchesTo

/-! ## The nibble frame -/

/-- With enable and read/write clear, `W4`'s operand is the expander byte of its nibble and register select; its own
backlight bit stands beside the flag (R91 b). -/
theorem nibbleFrame_eq_halfFrame (addr : Byte) {v : Byte} (on : Bool) (hv : v &&& 0x06 = 0) :
    nibbleFrame addr v on = halfFrame addr (v.extractLsb' 4 4) (v.getLsbD 0) (v.getLsbD 3 || on) := by
  simp only [nibbleFrame, halfFrame, List.cons.injEq, Event.txn.injEq, true_and, and_true]
  cases on <;> revert v <;> decide

theorem exec_w4_of_ready (v : Byte) {s : State} {addr : Byte} {on : Bool} (h : s.Ready addr on) :
    exec (.w4 v) s = .next (s.completed (nibbleFrame addr v on) .done) := by
  rw [← w4_events]
  exact serve_bus_of_ready h (w4Micros_isBus standard v)

/-- Settles O22: the nibble frame of such an operand is half of a byte frame, which latches its nibble. -/
theorem w4LatchesItsNibble : Obligations.W4LatchesItsNibble := by
  intro v s addr on h hv hlow
  refine ⟨_, exec_w4_of_ready v h, ?_⟩
  rw [completed_trace, nibbleFrame_eq_halfFrame addr on hv]
  exact (LatchesTo.half addr _ _ _).latches_append hlow

/-! ## The bring-up (R48; 95_test_vectors.md P1) -/

/-- The latches of the bring-up: four single nibbles, then the command bytes. -/
theorem latchesTo_beginEvents (addr fs : Byte) (on : Bool) :
    LatchesTo (beginEvents addr fs on)
      ([.nibble 0x3 false, .nibble 0x3 false, .nibble 0x3 false, .nibble 0x2 false]
        ++ [fs, 0x0C, 0x01, 0x06, 0x02].flatMap (byteLatches · false)) := by
  have start : LatchesTo
      [.openChannel, .delay (some 40000000) 50000000, .txn addr (blBit on), .delay none 1000000000] [] :=
    ((LatchesTo.channel.append (.delay _ _)).append (.raw addr (by cases on <;> rfl))).append (.delay _ _)
  exact (((((((((((((start.append (.half _ _ _ _)).append (.delay _ _)).append (.half _ _ _ _)).append
    (.delay _ _)).append (.half _ _ _ _)).append (.delay _ _)).append (.half _ _ _ _)).append (.byte _ _ _ _)).append
    (.byte _ _ _ _)).append (.byte _ _ _ _)).append (.delay _ _)).append (.byte _ _ _ _)).append
    (.byte _ _ _ _)).append (.delay _ _)

/-- The two nibbles of a byte, the high one first, make the byte. -/
theorem high_append_low : ∀ v : Byte, v.extractLsb' 4 4 ++ v.extractLsb' 0 4 = v := by
  decide

/-- The latches of consecutive byte frames pair into their bytes. -/
theorem pairLatches_byteLatches (vs : List Byte) (rs : Bool) :
    pairLatches (vs.flatMap (byteLatches · rs)) = vs.map fun v => some (v, rs) := by
  induction vs with
  | nil => rfl
  | cons v vs ih =>
    simp only [List.flatMap_cons, byteLatches, List.cons_append, List.nil_append, pairLatches, if_true,
      high_append_low, List.map_cons] at ih ⊢
    rw [ih]

/-- `BEGIN` in a constructed block (41_lifecycle.md R112). -/
theorem exec_begin_of_constructed {s : State} {addr cols rows : Byte} {font on : Bool} (hp : s.phase ≠ .unconstructed)
    (hb : s.busy = false) (ha : s.i2cAddress = some addr) (hc : s.columns = some cols) (hr : s.rows = some rows)
    (hf : s.charSizeFlag = some font) (hbl : s.backlightFlag = some on) :
    exec .begin s
      = .next { s.completed (beginEvents addr (0x20 ||| functionFlagsAfterBegin rows font) on) .done with
        functionFlags := some (functionFlagsAfterBegin rows font)
        rowOffsets := ⟨some 0x00, some 0x40, some cols, some (0x40 + cols)⟩
        controlFlags := some 0x04
        entryModeFlags := some 0x02
        phase := .begun } := by
  have hadm : admission .constructed s = none := admission_constructed_eq_none.mpr ⟨hb, hp⟩
  have hprog : beginProgram standard s = some (beginMicros standard rows cols font) := by
    simp [beginProgram, State.onBus, ha, hc, hr, hf, hbl]
  calc exec .begin s
      = serve (admission .constructed s) (beginProgram standard s) (perform standard) s := rfl
    _ = .next (perform standard (beginMicros standard rows cols font) s) := by
      rw [hadm, hprog, serve_accepted]
    _ = _ := by rw [perform_begin cols rows font ha hbl]

/-- Settles O27: on an empty trace the latches are those of the twelve steps, and those of each byte frame pair into its
byte. -/
theorem beginLatchesTheBringUp : Obligations.BeginLatchesTheBringUp := by
  intro s addr cols rows font on hp hb htr ha hc hr hf hbl
  refine ⟨_, exec_begin_of_constructed (by rw [hp]; nofun) hb ha hc hr hf hbl, ?_⟩
  rw [completed_trace, htr, List.nil_append, (latchesTo_beginEvents addr _ on).latches]
  exact ⟨rfl, pairLatches_byteLatches [0x20 ||| functionFlagsAfterBegin rows font, 0x0C, 0x01, 0x06, 0x02] false⟩

end Sys2Proof.Machine
end

section
/-! SUPPORT. Proofs of the statements of 30_encoding.md: decoding and encoding invert each other for all three
encodings, a request decodes exactly when R71's lengths and R72's operand types admit it, and the rows of formats HDCMD
and XBYTE send the byte they encode. -/

namespace Sys2Proof.Machine

/-! ## Controller command bytes and the expander byte (R60, R64) -/

/-- The words of the command rows, and of no other instruction, are their patterns. -/
theorem encode_eq_command_iff {i : Instr} {b : Byte} : encode i = .command b ↔ commandByte i = some b := by
  cases i <;> simp [encode, commandByte]

/-- R64's patterns are the command bytes that the default literals and flags make (R65). -/
theorem controllerCommand_standard (i : Instr) : controllerCommand standard i = commandByte i := by
  cases i
  case entryModeSet x y | cursorShift x y => revert x y; decide
  case displayControl x y z | functionSet x y z => revert x y z; decide
  case setCgramAddr a | setDdramAddr a => revert a; decide
  all_goals rfl

/-- The row a command byte fits gives back the instruction whose pattern it is. -/
theorem decodeCommand_of_commandByte {i : Instr} {b : Byte} (h : commandByte i = some b) : decodeCommand b = .ok i := by
  cases i <;> cases h
  case clearDisplay | returnHome => rfl
  case entryModeSet x y | cursorShift x y => revert x y; decide
  case displayControl x y z | functionSet x y z => revert x y z; decide
  case setCgramAddr a | setDdramAddr a => revert a; decide

theorem commandByte_of_decodeCommand {i : Instr} {b : Byte} (h : decodeCommand b = .ok i) : commandByte i = some b := by
  rw [← controllerCommand_standard]
  exact controllerCommand_of_decode ((decodeCommandWith_standard b).trans h)

theorem encode_decodeExpander : ∀ b : Byte, encode (decodeExpander b) = .expander b := by
  decide

theorem decodeExpander_xbyteOf :
    ∀ (d : Nibble) (l e w s : Bool), decodeExpander (xbyteOf d l e w s) = .xbyte d l e w s := by
  decide

theorem decodeExpander_of_encode {i : Instr} {b : Byte} (h : encode i = .expander b) : decodeExpander b = i := by
  cases i <;> cases h
  exact decodeExpander_xbyteOf _ _ _ _ _

/-- Settles O6: the pattern of what a command byte decodes to is the byte, and an expander byte's five fields are all of
its bits. -/
theorem decodedByteIsItsEncoding : Obligations.DecodedByteIsItsEncoding :=
  ⟨fun _ _ h => encode_eq_command_iff.mpr (commandByte_of_decodeCommand h), encode_decodeExpander⟩

/-- Two rows that fix one bit at different values share no byte. -/
theorem not_fits_both {r q : CommandRow} {b : Byte} (h : (r.pattern ^^^ q.pattern) &&& (r.mask &&& q.mask) ≠ 0) :
    ¬ (r.fits b = true ∧ q.fits b = true) := by
  rintro ⟨hr, hq⟩
  simp only [CommandRow.fits, decide_eq_true_eq] at hr hq
  have hbit : ∀ x m n : Bool, (((x && m) ^^ (x && n)) && (m && n)) = false := by decide
  apply h
  rw [← hr, ← hq]
  ext k hk
  simp only [BitVec.getElem_and, BitVec.getElem_xor, hbit]
  exact (BitVec.getElem_zero hk).symm

/-- Of any two rows of R64 some bit is fixed in both, at 0 in the one and at 1 in the other. -/
theorem commandRows_pairwise :
    commandRows.Pairwise fun r q => (r.pattern ^^^ q.pattern) &&& (r.mask &&& q.mask) ≠ 0 := by
  decide

/-- Settles O3: any two rows differ in a bit both fix, so no two of them fit one byte. -/
theorem commandRowsDoNotOverlap : Obligations.CommandRowsDoNotOverlap := by
  intro b
  have hp := commandRows_pairwise.filter (·.fits b)
  have hfit : ∀ r ∈ commandRows.filter (·.fits b), r.fits b = true := fun r hr => (List.mem_filter.mp hr).2
  generalize commandRows.filter (·.fits b) = rows at hp hfit ⊢
  match rows with
  | [] | [_] => simp
  | r :: q :: rows =>
    exact absurd ⟨hfit r (by simp), hfit q (by simp)⟩ (not_fits_both (List.rel_of_pairwise_cons hp (by simp)))

/-! ## Requests (R71, R72, R75) -/

/-- The bytes are the encoding of a well-formed instruction with `rest` behind it. -/
def EncodedThen (i : Instr) (bytes rest : List Byte) : Prop :=
  ∃ word, encode i = .request word ∧ bytes = word ++ rest ∧ i.wf = true

/-- What a decoded operand byte stands for (R72), for an instruction built of it. -/
theorem map_decode_ok {α : Type} {dec : Byte → Except DecodeError α} {enc : α → Byte} {b : Byte}
    {f : α → Instr} {i : Instr} (hdec : ∀ {b a}, dec b = .ok a → enc a = b) (h : (dec b).map f = .ok i) :
    ∃ a, b = enc a ∧ i = f a := by
  cases hd : dec b with
  | error e => rw [hd] at h; cases h
  | ok a => rw [hd] at h; cases h; exact ⟨a, (hdec hd).symm, rfl⟩

namespace EncodedThen

section
variable {op : Byte} {n : Nat} {bs rest : List Byte} {i : Instr}

theorem opcode_eq (hop : op.toNat = n) : op = BitVec.ofNat 8 n := by
  rw [← hop, BitVec.ofNat_toNat, BitVec.setWidth_eq]

theorem of_noOperand {j : Instr} (hop : op.toNat = n) (hj : encode j = .request [BitVec.ofNat 8 n])
    (hwf : j.wf = true) (h : noOperand j bs = .ok (i, rest)) : EncodedThen i (op :: bs) rest := by
  cases h
  exact ⟨_, hj, by rw [opcode_eq hop]; rfl, hwf⟩

theorem of_oneOperand {k : Byte → Except DecodeError Instr} (hop : op.toNat = n)
    (hk : ∀ a, k a = .ok i → encode i = .request [BitVec.ofNat 8 n, a] ∧ i.wf = true)
    (h : oneOperand op k bs = .ok (i, rest)) : EncodedThen i (op :: bs) rest := by
  obtain ⟨a, rfl, ha⟩ := oneOperand_ok h
  obtain ⟨henc, hwf⟩ := hk a ha
  exact ⟨_, henc, by rw [opcode_eq hop]; rfl, hwf⟩

theorem of_twoOperands {k : Byte → Byte → Except DecodeError Instr} (hop : op.toNat = n)
    (hk : ∀ a b, k a b = .ok i → encode i = .request [BitVec.ofNat 8 n, a, b] ∧ i.wf = true)
    (h : twoOperands op k bs = .ok (i, rest)) : EncodedThen i (op :: bs) rest := by
  obtain ⟨a, b, rfl, hab⟩ := twoOperands_ok h
  obtain ⟨henc, hwf⟩ := hk a b hab
  exact ⟨_, henc, by rw [opcode_eq hop]; rfl, hwf⟩

theorem of_threeOperands {k : Byte → Byte → Byte → Except DecodeError Instr} (hop : op.toNat = n)
    (hk : ∀ a b c, k a b c = .ok i → encode i = .request [BitVec.ofNat 8 n, a, b, c] ∧ i.wf = true)
    (h : threeOperands op k bs = .ok (i, rest)) : EncodedThen i (op :: bs) rest := by
  obtain ⟨a, b, c, rfl, habc⟩ := threeOperands_ok h
  obtain ⟨henc, hwf⟩ := hk a b c habc
  exact ⟨_, henc, by rw [opcode_eq hop]; rfl, hwf⟩

/-- A row with one operand byte of any value. -/
theorem of_byteOperand {f : Byte → Instr} (hop : op.toNat = n)
    (hf : ∀ a, encode (f a) = .request [BitVec.ofNat 8 n, a] ∧ (f a).wf = true)
    (h : oneOperand op (fun a => .ok (f a)) bs = .ok (i, rest)) : EncodedThen i (op :: bs) rest :=
  of_oneOperand hop (fun a ha => by cases ha; exact hf a) h

/-- A row with one operand byte `0x00` or `0x01`. -/
theorem of_decodedOperand {α : Type} {dec : Byte → Except DecodeError α} {enc : α → Byte} {f : α → Instr}
    (hop : op.toNat = n) (hdec : ∀ {b a}, dec b = .ok a → enc a = b)
    (hf : ∀ a, encode (f a) = .request [BitVec.ofNat 8 n, enc a] ∧ (f a).wf = true)
    (h : oneOperand op (fun b => (dec b).map f) bs = .ok (i, rest)) : EncodedThen i (op :: bs) rest := by
  refine of_oneOperand hop (fun b hb => ?_) h
  obtain ⟨a, rfl, rfl⟩ := map_decode_ok hdec hb
  exact hf a

theorem of_glyphOperands (hop : op.toNat = 0x1B) (h : glyphOperands op bs = .ok (i, rest)) :
    EncodedThen i (op :: bs) rest := by
  obtain ⟨s, m, rfl, rfl⟩ := glyphOperands_ok h
  exact ⟨_, rfl, by rw [opcode_eq hop]; rfl, rfl⟩

theorem of_textOperand (hop : op.toNat = 0x1D) (h : textOperand op bs = .ok (i, rest)) :
    EncodedThen i (op :: bs) rest := by
  obtain ⟨text, rfl, hlen, rfl⟩ := textOperand_ok h
  exact ⟨_, rfl, by rw [opcode_eq hop]; rfl, by simpa [Instr.wf] using hlen⟩

/-- A request that decodes has consumed the encoding of what it decodes to, row by row of R71's table. -/
theorem of_decodeOperands (h : decodeOperands op bs = .ok (i, rest)) : EncodedThen i (op :: bs) rest := by
  unfold decodeOperands at h
  split at h <;> rename_i hop
  case h_1 | h_2 | h_3 | h_4 => exact of_byteOperand hop (fun _ => ⟨rfl, rfl⟩) h
  case h_5 =>
    refine of_twoOperands hop (fun v b hb => ?_) h
    obtain ⟨m, rfl, rfl⟩ := map_decode_ok encodeMode_of_decodeMode hb
    exact ⟨rfl, rfl⟩
  case h_6 => exact of_threeOperands hop (fun _ _ _ hk => by cases hk; exact ⟨rfl, rfl⟩) h
  case h_7 | h_8 | h_9 | h_20 => exact of_noOperand hop rfl rfl h
  case h_10 | h_11 | h_12 | h_13 | h_15 | h_16 =>
    exact of_decodedOperand hop encodeBool_of_decodeBool (fun _ => ⟨rfl, rfl⟩) h
  case h_14 => exact of_decodedOperand hop encodeDirection_of_decodeDirection (fun _ => ⟨rfl, rfl⟩) h
  case h_17 => exact of_glyphOperands hop h
  case h_18 => exact of_twoOperands hop (fun _ _ hk => by cases hk; exact ⟨rfl, rfl⟩) h
  case h_19 => exact of_textOperand hop h
  case h_21 => cases h

end

end EncodedThen

/-- Settles O5: each row of R71's table consumes its opcode byte and exactly the operand bytes its encoding writes. -/
theorem decodedRequestIsItsEncoding : Obligations.DecodedRequestIsItsEncoding := by
  intro bytes i rest h
  cases bytes with
  | nil => cases h
  | cons op bs => exact EncodedThen.of_decodeOperands h

/-- A text whose count fits its byte is read back whole (R75). -/
theorem textOperand_append {op : Byte} {text : List Byte} (rest : List Byte) (h : text.length ≤ 255) :
    textOperand op (BitVec.ofNat 8 text.length :: (text ++ rest)) = .ok (.print text, rest) := by
  have hn : (BitVec.ofNat 8 text.length).toNat = text.length := by
    rw [BitVec.toNat_ofNat, Nat.mod_eq_of_lt (by omega)]
  simp [textOperand, hn]

/-- A request's word decodes to the instruction, and the bytes behind it are left (R75). -/
theorem decodeRequest_encode_append {i : Instr} {word : List Byte} (rest : List Byte) (hwf : i.wf = true)
    (h : encode i = .request word) : decodeRequest (word ++ rest) = .ok (i, rest) := by
  cases i <;> cases h
  case send v mode => cases mode <;> rfl
  case scroll dir => cases dir <;> rfl
  case backlight on | display on | cursor on | blink on | textDir on | autoscroll on => cases on <;> rfl
  case print text => exact textOperand_append rest (by simpa [Instr.wf] using hwf)
  all_goals rfl

/-- Settles O4: each of the three encodings is read back by its own decoder. -/
theorem decodeInvertsEncode : Obligations.DecodeInvertsEncode := by
  intro i hwf
  cases hi : encode i with
  | request word => simpa [decode] using decodeRequest_encode_append [] hwf hi
  | command b => rw [decode, decodeCommand_of_commandByte (encode_eq_command_iff.mp hi)]; rfl
  | expander b => rw [decode, decodeExpander_of_encode hi]

/-- Settles O2: each of the seven words is its instruction's, with what stands behind it. -/
theorem writtenOutWordsDecode : Obligations.WrittenOutWordsDecode :=
  ⟨rfl, rfl, rfl, rfl, rfl, rfl, rfl⟩

/-! ## Which requests decode (R71, R72, R73) -/

section
variable {α β ε : Type}

@[simp] theorem isOk_ok (a : α) : (Except.ok a : Except ε α).isOk = true := rfl

@[simp] theorem isOk_error (e : ε) : (Except.error e : Except ε α).isOk = false := rfl

@[simp] theorem isOk_map (f : α → β) (x : Except ε α) : (x.map f).isOk = x.isOk := by
  cases x <;> rfl

theorem isOk_eq_true_iff {x : Except ε α} : x.isOk = true ↔ ∃ a, x = .ok a := by
  cases x <;> simp

end

@[simp] theorem decodeMode_isOk : ∀ b : Byte, (decodeMode b).isOk = !decide (1 < b.toNat) := by
  decide

@[simp] theorem decodeBool_isOk : ∀ b : Byte, (decodeBool b).isOk = !decide (1 < b.toNat) := by
  decide

@[simp] theorem decodeDirection_isOk : ∀ b : Byte, (decodeDirection b).isOk = !decide (1 < b.toNat) := by
  decide

section
variable (op : Byte) (bs : List Byte)

/-- A row's operands decode when the request is not shorter than its length and the operand bytes have a meaning. -/
@[simp] theorem oneOperand_isOk (k : Byte → Except DecodeError Instr) :
    (oneOperand op k bs).isOk = (!decide (bs.length + 1 < 2) && (k (bs.headD 0)).isOk) := by
  match bs with
  | [] => rfl
  | a :: bs => simp [oneOperand]

@[simp] theorem twoOperands_isOk (k : Byte → Byte → Except DecodeError Instr) :
    (twoOperands op k bs).isOk
      = (!decide (bs.length + 1 < 3) && (k (bs.headD 0) ((bs.drop 1).headD 0)).isOk) := by
  match bs with
  | [] | [_] => rfl
  | a :: b :: bs => simp [twoOperands]

@[simp] theorem threeOperands_isOk (k : Byte → Byte → Byte → Except DecodeError Instr) :
    (threeOperands op k bs).isOk
      = (!decide (bs.length + 1 < 4)
        && (k (bs.headD 0) ((bs.drop 1).headD 0) ((bs.drop 2).headD 0)).isOk) := by
  match bs with
  | [] | [_] | [_, _] => rfl
  | a :: b :: c :: bs => simp [threeOperands]

@[simp] theorem glyphOperands_isOk : (glyphOperands op bs).isOk = !decide (bs.length + 1 < 10) := by
  match bs with
  | [] | [_] | [_, _] | [_, _, _] | [_, _, _, _] | [_, _, _, _, _] | [_, _, _, _, _, _]
  | [_, _, _, _, _, _, _] | [_, _, _, _, _, _, _, _] => rfl
  | _ :: _ :: _ :: _ :: _ :: _ :: _ :: _ :: _ :: bs => simp [glyphOperands]

@[simp] theorem textOperand_isOk :
    (textOperand op bs).isOk = !decide (bs.length + 1 < 2 + (bs.headD 0).toNat) := by
  match bs with
  | [] => rfl
  | n :: bs =>
    have hlen : bs.length + 1 + 1 < 2 + n.toNat ↔ bs.length < n.toNat := by omega
    by_cases h : bs.length < n.toNat <;> simp [textOperand, h, hlen]

end

/-- A byte string decodes exactly when R73 does not refuse it, row by row of R71's table. -/
theorem decodeRequest_isOk (bytes : List Byte) : (decodeRequest bytes).isOk = !badRequest bytes := by
  cases bytes with
  | nil => rfl
  | cons op bs =>
    simp only [decodeRequest, badRequest, ← BitVec.toNat_inj]
    unfold decodeOperands
    split <;> rename_i hop
    case h_21 => simp [requestLength]
    all_goals simp [requestLength, noOperand, hop]

/-- What does not decode is refused whole by an idle block. -/
theorem fetchBy_badEncoding {dec : Presented → Decoded} {s : State} {p : Presented} {later : List Presented}
    (hb : s.busy = false) (hi : s.inbox = p :: later) (hd : (dec p).isOk = false) :
    fetchBy dec s = .refuse .badEncoding { s with inbox := later } := by
  cases hp : dec p with
  | ok x => simp [hp] at hd
  | error e => simp [fetchBy, hi, hb, hp]

/-- Settles O9: a request decodes exactly when it is not bad, and the fetch refuses what does not decode. -/
theorem malformedRequestsAreRefused : Obligations.MalformedRequestsAreRefused := by
  refine ⟨fun s bytes later hb hi hbad => ?_, fun bytes hgood => ?_⟩
  · have hd : (decode (.request bytes)).isOk = false := by rw [decode, decodeRequest_isOk, hbad]; rfl
    rw [step, fetch, fetchBy_badEncoding hb hi hd]
    rfl
  · have hd : (decodeRequest bytes).isOk = true := by rw [decodeRequest_isOk, hgood]; rfl
    obtain ⟨⟨i, rest⟩, h⟩ := isOk_eq_true_iff.mp hd
    exact ⟨i, rest, h⟩

/-! ## A step of an idle block (R70, R75) -/

/-- Settles O7: `step` is `stepWith` at the default configuration, where `decodeWith` is `decode` and `execWith` is
`exec`. -/
theorem stepRunsTheDecodedInstruction : Obligations.StepRunsTheDecodedInstruction := by
  intro s p later i rest hb hi hd
  rw [step_eq_stepWith, exec_eq_execWith]
  exact stepWithRunsTheDecodedInstruction standard s p later i rest hb hi ((decodeWith_standard p).trans hd)

/-! ## The bytes the rows send (R90, R98; notes/assumptions/7.md) -/

/-- An operation that asks for phase Begun is refused before it, F1 or F2 (60_exceptions.md R153). -/
theorem refusedBeforeBegun_of_admission {i : Instr} (h : ∀ s, refusalOf i s = admission .begun s) :
    RefusedBeforeBegun i := by
  intro s hb hp
  have hadm : admission .begun s = some (if s.phase = .unconstructed then .unconstructed else .notBegun) := by
    cases hph : s.phase with
    | unconstructed => simp [admission, phaseRefusal, hb, hph]
    | constructed => simp [admission, phaseRefusal, hb, hph]
    | begun => exact absurd hph hp
  rw [exec_eq_execWith, execWith, h, hadm, serve_refused]
  rfl

/-- `CMD` in a ready state (R98). -/
theorem exec_cmd_of_ready (v : Byte) {s : State} {addr : Byte} {on : Bool} (h : s.Ready addr on) :
    exec (.cmd v) s = .next (s.completed (byteFrame addr v false on) .done) := by
  have hserve := serve_bus_of_ready (c := standard) h (sendMicros_isBus standard v .command)
  rw [send_events] at hserve
  exact hserve

/-- `XWR` in a ready state (R90). -/
theorem exec_xwr_of_ready (d : Byte) {s : State} {addr : Byte} {on : Bool} (h : s.Ready addr on) :
    exec (.xwr d) s = .next (s.completed [.txn addr (d ||| blBit on)] .done) :=
  serve_bus_of_ready (c := standard) (p := [.xwr d]) h (by simp [Micro.isBus])

/-- A command row acts as `CMD` of its pattern. -/
theorem exec_of_commandByte {i : Instr} {b : Byte} (h : commandByte i = some b) (s : State) :
    exec i s = exec (.cmd b) s := by
  rw [exec_eq_execWith, exec_eq_execWith]
  exact execWith_of_controllerCommand ((controllerCommand_standard i).trans h) s

/-- Settles O39: a command row acts as `CMD` of its byte. -/
theorem controllerCommandsSendTheirPattern : Obligations.ControllerCommandsSendTheirPattern := by
  refine ⟨fun i b s addr on hi h => ?_, fun i b hi s hb hp => ?_⟩
  · rw [exec_of_commandByte hi, exec_cmd_of_ready b h]
  · rw [exec_of_commandByte hi]
    exact refusedBeforeBegun_of_admission (i := .cmd b) (fun _ => rfl) s hb hp

/-- The backlight can add its line to the expander byte and changes no other (R91 b). -/
theorem expanderByte_or_blBit : ∀ (d : Nibble) (l e w s on : Bool),
    expanderByte standard d l e w s ||| blBit on = xbyteOf d (l || on) e w s := by
  decide

/-- Settles O40: the expander row acts as `XWR` of the byte of its lines. -/
theorem expanderByteIsTransmitted : Obligations.ExpanderByteIsTransmitted := by
  refine ⟨fun d l e w r s addr on h => ?_, fun d l e w r => refusedBeforeBegun_of_admission fun _ => rfl⟩
  rw [exec_eq_execWith, execWith_xbyte, ← exec_eq_execWith, exec_xwr_of_ready _ h, expanderByte_or_blBit]

end Sys2Proof.Machine
end

section
/-! SUPPORT. Proofs of the statements of 40_sequencer_core.md: what `XWR`, `W4`, `SEND`, `CMD` and `DAT` do in a ready
block, that a toggle re-issues the block's own copy after a raw command, and the counts of every operation's events. -/

namespace Sys2Proof.Machine

/-! ## Ready blocks -/

/-- An operation that wrote no field leaves the block ready. -/
theorem State.Ready.completed {s : State} {addr : Byte} {on : Bool} (h : s.Ready addr on) (es : List Event)
    (r : Response) : (s.completed es r).Ready addr on := by
  obtain ⟨hp, -, ha, hb⟩ := h
  exact ⟨hp, rfl, ha, hb⟩

/-- An operation of bus steps alone, in a ready state: it emits their events and completes. -/
theorem exec_bus_of_ready {i : Instr} {p : Program} {s : State} {addr : Byte} {on : Bool} (h : s.Ready addr on)
    (hadm : refusalOf i s = admission .begun s) (hi : programOf standard i s = s.onBus p)
    (hp : ∀ m ∈ p, m.isBus = true) :
    exec i s = .next (s.completed (p.flatMap (busEvent standard addr on)) .done) := by
  rw [exec_eq_execWith, execWith, hadm, hi]
  exact serve_bus_of_ready h hp

/-- An operation that counts from 0, in a ready state: what stands behind the count's start runs, and it completes. -/
theorem serve_counted_of_ready {c : Config} {p : Program} {s : State} {addr : Byte} {on : Bool} (h : s.Ready addr on) :
    serve (admission .begun s) (s.onBus (.startCount :: p)) (perform c) s
      = .next (finish (drain c p (setCount (some 0) (accept s)))) := by
  rw [admission_of_ready h, onBus_of_ready h]
  rfl

/-! ## XWR and W4 (R90, R93) -/

/-- Settles O15: one bus step, and the backlight ORed into its byte. -/
theorem xwrTransmitsOneByte : Obligations.XwrTransmitsOneByte :=
  ⟨fun d _ _ _ h => exec_xwr_of_ready d h,
    fun d => ⟨refusedBeforeBegun_of_admission fun _ => rfl, decodeInvertsEncode (.xwr d) rfl⟩⟩

/-- Settles O16: R93's five events are the nibble frame, `0xFB` being the complement of the enable bit. -/
theorem w4EmitsTheNibbleFrame : Obligations.W4EmitsTheNibbleFrame :=
  ⟨fun v _ _ _ h => exec_w4_of_ready v h,
    fun v => ⟨refusedBeforeBegun_of_admission fun _ => rfl, decodeInvertsEncode (.w4 v) rfl⟩⟩

/-! ## SEND and CMD (R96, R98) -/

theorem isData_eq_decide (mode : Mode) : Mode.isData mode = decide (mode = .data) := by
  cases mode <;> rfl

/-- `SEND` in a ready state (R96). -/
theorem exec_send_of_ready (v : Byte) (mode : Mode) {s : State} {addr : Byte} {on : Bool} (h : s.Ready addr on) :
    exec (.send v mode) s = .next (s.completed (byteFrame addr v (mode = .data) on) .done) := by
  rw [← isData_eq_decide, ← send_events]
  exact exec_bus_of_ready h rfl rfl (sendMicros_isBus standard v mode)

/-- Settles O17: the expansion's two nibble operands are R63's composed bytes. -/
theorem sendEmitsTheByteFrame : Obligations.SendEmitsTheByteFrame :=
  ⟨fun v mode _ _ _ h => exec_send_of_ready v mode h, fun _ _ => refusedBeforeBegun_of_admission fun _ => rfl,
    fun v => ⟨decodeInvertsEncode (.send v .command) rfl, decodeInvertsEncode (.send v .data) rfl⟩⟩

/-- Settles O18: `CMD` is `SEND` with register select 0, for every byte. -/
theorem cmdSendsEveryByteAsACommand : Obligations.CmdSendsEveryByteAsACommand :=
  ⟨fun v _ _ _ h => exec_cmd_of_ready v h,
    fun v => ⟨refusedBeforeBegun_of_admission fun _ => rfl, decodeInvertsEncode (.cmd v) rfl⟩⟩

/-! ## DAT (R99) -/

/-- `DAT` in a ready state, where WRITE_FAILS answers `failed` for its byte: the frame is sent either way. -/
theorem execWith_dat_of_ready {fails : State → Byte → Bool} {v : Byte} {failed : Bool}
    (hf : ∀ t, fails t v = failed) {s : State} {addr : Byte} {on : Bool} (h : s.Ready addr on) :
    execWith (standard.withWriteFails fails) (.dat v) s
      = .next (s.completed (byteFrame addr v true on) (.count (if failed then 0 else 1))) := by
  have ⟨_, _, ha, hb⟩ := h
  have hd := drain_counted_append (f := fails) (s := setCount (some 0) (accept s)) v [] ha hb rfl
  rw [List.append_nil, hf, setCount_emitAll] at hd
  calc execWith (standard.withWriteFails fails) (.dat v) s
      = .next (finish (drain (standard.withWriteFails fails) (countedDatMicros (standard.withWriteFails fails) v)
          (setCount (some 0) (accept s)))) := serve_counted_of_ready h
    _ = .next (s.completed (byteFrame addr v true on) (.count (if failed then 0 else 1))) := by
      rw [hd]
      cases failed <;> exact congrArg _ (finish_counted _ _ s)

/-- `DAT` in a ready state under the default configuration, where no write fails. -/
theorem exec_dat_of_ready (v : Byte) {s : State} {addr : Byte} {on : Bool} (h : s.Ready addr on) :
    exec (.dat v) s = .next (s.completed (byteFrame addr v true on) (.count 1)) :=
  (exec_eq_execWith (.dat v) s).trans (execWith_dat_of_ready (fails := standard.writeFails) (fun _ => rfl) h)

/-- Settles O19: the ten events are sent whether or not the write fails, and the failure decides the count. -/
theorem datSendsADataByteAndCounts : Obligations.DatSendsADataByteAndCounts :=
  ⟨fun v _ _ _ h => exec_dat_of_ready v h,
    fun _ _ _ _ _ h => ⟨fun hf => execWith_dat_of_ready hf h, fun hf => execWith_dat_of_ready hf h⟩,
    fun v => ⟨refusedBeforeBegun_of_admission fun _ => rfl, decodeInvertsEncode (.dat v) rfl⟩⟩

/-! ## The two nibbles of SEND (R97) -/

theorem dataLines_eq_of_nibbles_eq : ∀ v : Byte, v.extractLsb' 4 4 = v.extractLsb' 0 4 →
    v &&& 0xF0 = v <<< 4 &&& 0xF0 := by
  decide

/-- Settles O20: the operands recombine as under every choice of masks, and the byte frame, whose counts are known,
latches its two nibbles. -/
theorem sendRecombinesAndLatchesTwice : Obligations.SendRecombinesAndLatchesTwice := by
  refine ⟨fun v mode => ⟨?_, ?_, ?_, fun hv => ?_⟩, fun v mode s addr on h => ?_⟩
  · exact (nibblesRecombineForEveryMask standard v mode rfl).1
  · exact nibbleOperand_and_eq_zero (modeMask_and_eq_zero mode rfl) rfl
  · exact nibbleOperand_and_eq_zero (modeMask_and_eq_zero mode rfl) rfl
  · exact congrArg (· ||| modeMask standard mode) (dataLines_eq_of_nibbles_eq v hv)
  · exact ⟨_, byteFrame addr v (mode = .data) on, exec_send_of_ready v mode h, rfl, byteFrame_txns ..,
      byteFrame_holds .., byteFrame_length .., byteFrame_minNs .., byteFrame_useNs ..,
      (LatchesTo.byte addr v _ on).latches_append⟩

/-! ## The toggles (R124, 70_reset_and_hazards.md R182) -/

/-- A toggle of `control_flags` in a ready state: DISPLAYCONTROL carries out the copy with its one bit changed. -/
theorem IsControlToggle.exec_of_ready {on bl : Bool} {i : Instr} {m f addr : Byte} {s : State}
    (hi : IsControlToggle on i m) (h : s.Ready addr bl) (hf : s.controlFlags = some f) :
    exec i s = .next { s.completed (byteFrame addr (0x08 ||| toggled f m on) false bl) .done with
      controlFlags := some (toggled f m on) } := by
  have ⟨_, _, ha, hb⟩ := h
  have hprog : controlToggleProgram standard m on s = some (controlToggleMicros standard f m on) := by
    simp only [controlToggleProgram, hf]
    exact onBus_of_ready h _
  rw [hi.exec_eq, admission_of_ready h, hprog, serve_accepted]
  exact congrArg _ (perform_write_cmd (.controlFlags (toggled f m on)) _ ⟨nofun, nofun⟩ ha hb)

/-- The same for a toggle of `entry_mode_flags` and ENTRYMODESET. -/
theorem IsEntryToggle.exec_of_ready {on bl : Bool} {i : Instr} {m f addr : Byte} {s : State}
    (hi : IsEntryToggle on i m) (h : s.Ready addr bl) (hf : s.entryModeFlags = some f) :
    exec i s = .next { s.completed (byteFrame addr (0x04 ||| toggled f m on) false bl) .done with
      entryModeFlags := some (toggled f m on) } := by
  have ⟨_, _, ha, hb⟩ := h
  have hprog : entryToggleProgram standard m on s = some (entryToggleMicros standard f m on) := by
    simp only [entryToggleProgram, hf]
    exact onBus_of_ready h _
  rw [hi.exec_eq, admission_of_ready h, hprog, serve_accepted]
  exact congrArg _ (perform_write_cmd (.entryModeFlags (toggled f m on)) _ ⟨nofun, nofun⟩ ha hb)

/-- Settles O42: the raw command leaves the block ready and its flag registers alone, so the toggle reads the copy. -/
theorem toggleAfterRawCommandReissuesTheCopy : Obligations.ToggleAfterRawCommandReissuesTheCopy := by
  intro v s addr bl h
  have ht := h.completed (byteFrame addr v false bl) .done
  exact ⟨_, exec_cmd_of_ready v h, rfl, rfl, rfl,
    fun i m f on hf hi => ⟨_, IsControlToggle.exec_of_ready hi ht hf, rfl, rfl⟩,
    fun i m f on hf hi => ⟨_, IsEntryToggle.exec_of_ready hi ht hf, rfl, rfl⟩⟩

/-! ## The display operations in a ready block (42_display_ops.md) -/

section
variable {s : State} {addr : Byte} {on : Bool}

theorem cmd_events (addr v : Byte) (on : Bool) :
    (cmdMicros standard v).flatMap (busEvent standard addr on) = byteFrame addr v false on :=
  send_events addr v .command on

theorem dat_events (addr v : Byte) (on : Bool) :
    (datMicros standard v).flatMap (busEvent standard addr on) = byteFrame addr v true on :=
  send_events addr v .data on

/-- A command and the slow hold behind it (R120, R121). -/
theorem slow_events (addr v : Byte) (on : Bool) :
    (cmdMicros standard v ++ [Micro.hold standard.tSlow]).flatMap (busEvent standard addr on)
      = byteFrame addr v false on ++ [slowHold] := by
  rw [List.flatMap_append, cmd_events]
  rfl

theorem slow_isBus (v : Byte) : ∀ m ∈ cmdMicros standard v ++ [Micro.hold standard.tSlow], m.isBus = true := by
  intro m hm
  rcases List.mem_append.mp hm with hm | hm
  · exact sendMicros_isBus _ _ _ m hm
  · rw [List.mem_singleton.mp hm]; rfl

/-- `CLEAR` (R120). -/
theorem exec_clear_of_ready (h : s.Ready addr on) :
    exec .clear s = .next (s.completed (byteFrame addr 0x01 false on ++ [slowHold]) .done) :=
  slow_events addr 0x01 on ▸ exec_bus_of_ready h rfl rfl (slow_isBus 0x01)

/-- `HOME` (R121). -/
theorem exec_home_of_ready (h : s.Ready addr on) :
    exec .home s = .next (s.completed (byteFrame addr 0x02 false on ++ [slowHold]) .done) :=
  slow_events addr 0x02 on ▸ exec_bus_of_ready h rfl rfl (slow_isBus 0x02)

/-- `SCROLL` (R136). -/
theorem exec_scroll_of_ready (dir : Direction) (h : s.Ready addr on) :
    exec (.scroll dir) s = .next (s.completed (byteFrame addr (scrollCommand standard dir) false on) .done) := by
  rw [← cmd_events]
  exact exec_bus_of_ready h rfl rfl (sendMicros_isBus standard _ .command)

/-- `CREATECHAR` (R143): the address command, then the eight bitmap bytes. -/
theorem exec_createChar_of_ready (slot : Byte) (bitmap : Bitmap) (h : s.Ready addr on) :
    exec (.createChar slot bitmap) s
      = .next (s.completed (byteFrame addr (glyphCommand standard slot) false on
          ++ bitmap.toList.flatMap fun b => byteFrame addr b true on) .done) := by
  have hbus : ∀ m ∈ createCharMicros standard slot bitmap, m.isBus = true := by
    intro m hm
    rcases List.mem_append.mp hm with hm | hm
    · exact sendMicros_isBus _ _ _ m hm
    · obtain ⟨b, -, hm⟩ := List.mem_flatMap.mp hm
      exact sendMicros_isBus _ _ _ m hm
  rw [exec_bus_of_ready h rfl rfl hbus, createCharMicros, List.flatMap_append, List.flatMap_assoc]
  simp only [cmd_events, dat_events]

/-- `BACKLIGHT` (R123). -/
theorem exec_backlight_of_ready (b : Bool) (h : s.Ready addr on) :
    exec (.backlight b) s
      = .next { s.completed [.txn addr (blBit b)] .done with backlightFlag := some b } := by
  have ⟨_, _, ha, _⟩ := h
  calc exec (.backlight b) s
      = serve (admission .begun s) (s.onBus (backlightMicros b)) (perform standard) s := rfl
    _ = .next { s.completed [.txn addr (blBit b)] .done with backlightFlag := some b } := by
      rw [admission_of_ready h, onBus_of_ready h, serve_accepted, perform_backlight b ha]

/-- `PRINT` of a text none of whose bytes fails (R146): every byte is sent and counted. -/
theorem execWith_print_of_ready {fails : Byte → Bool} (text : List Byte) (hf : ∀ b ∈ text, fails b = false)
    (h : s.Ready addr on) :
    execWith (standard.withWriteFails fun _ b => fails b) (.print text) s
      = .next (s.completed (text.flatMap fun b => byteFrame addr b true on) (.count text.length)) := by
  have ⟨_, _, ha, hb⟩ := h
  have hd := drain_text_append (s := setCount (some 0) (accept s)) text [] hf ha hb rfl
  rw [List.append_nil, drain_nil, setCount_emitAll, setCount_setCount, Nat.zero_add] at hd
  calc execWith (standard.withWriteFails fun _ b => fails b) (.print text) s
      = .next (finish (drain (standard.withWriteFails fun _ b => fails b)
          (text.flatMap (countedDatMicros (standard.withWriteFails fun _ b => fails b)))
          (setCount (some 0) (accept s)))) := serve_counted_of_ready h
    _ = .next (s.completed (text.flatMap fun b => byteFrame addr b true on) (.count text.length)) := by
      rw [hd, finish_counted]

theorem exec_print_of_ready (text : List Byte) (h : s.Ready addr on) :
    exec (.print text) s
      = .next (s.completed (text.flatMap fun b => byteFrame addr b true on) (.count text.length)) :=
  (exec_eq_execWith (.print text) s).trans
    (execWith_print_of_ready (fails := fun _ => false) text (fun _ _ => rfl) h)

end

/-! ## Counts (R100, 41_lifecycle.md R113, 70_reset_and_hazards.md R180) -/

/-- What the tables count of a trace: events, transactions, holds, and the sums of the holds' minima and use values. -/
def counts (es : List Event) : Nat × Nat × Nat × Nat × Nat :=
  (es.length, es.countP Event.isTxn, es.countP Event.isHold, minHoldNs es, useHoldNs es)

theorem counts_append (es fs : List Event) : counts (es ++ fs) = counts es + counts fs := by
  simp [counts]

/-- One event's share of the counts. -/
def Event.counts : Event → Nat × Nat × Nat × Nat × Nat
  | .openChannel => (1, 0, 0, 0, 0)
  | .txn _ _ => (1, 1, 0, 0, 0)
  | .delay none use => (1, 0, 1, 0, use)
  | .delay (some min) use => (1, 0, 1, min, use)

theorem counts_nil : counts [] = 0 := rfl

theorem counts_cons (e : Event) (es : List Event) : counts (e :: es) = e.counts + counts es := by
  have hone : counts [e] = e.counts := by
    cases e with
    | openChannel => rfl
    | txn a b => rfl
    | delay min use => cases min <;> rfl
  rw [← hone, ← counts_append, List.singleton_append]

theorem counts_nibbleFrame (addr v : Byte) (on : Bool) :
    counts (nibbleFrame addr v on) = (5, 3, 2, 37450, 51000) := by
  simp [nibbleFrame, counts_cons, counts_nil, Event.counts]

theorem counts_halfFrame (addr : Byte) (n : Nibble) (rs on : Bool) :
    counts (halfFrame addr n rs on) = (5, 3, 2, 37450, 51000) := by
  simp [counts]

theorem counts_byteFrame (addr v : Byte) (rs on : Bool) :
    counts (byteFrame addr v rs on) = (10, 6, 4, 74900, 102000) := by
  simp [counts]

/-- A command frame and the slow hold behind it. -/
theorem counts_slowFrame (addr v : Byte) (on : Bool) :
    counts (byteFrame addr v false on ++ [slowHold]) = (11, 6, 5, 2074900, 2102000) := by
  simp [counts_append, counts_byteFrame, slowHold, counts_cons, counts_nil, Event.counts]

/-- The frames of a text count as often as it has bytes. -/
theorem counts_text (addr : Byte) (on : Bool) (text : List Byte) :
    counts (text.flatMap fun b => byteFrame addr b true on)
      = (10 * text.length, 6 * text.length, 4 * text.length, 74900 * text.length, 102000 * text.length) := by
  induction text with
  | nil => rfl
  | cons b text ih =>
    rw [List.flatMap_cons, counts_append, counts_byteFrame, ih]
    simp only [List.length_cons, Nat.mul_add, Nat.mul_one, Nat.add_comm, Prod.mk_add_mk]

/-- An address command and the eight bytes of a glyph. -/
theorem counts_glyph (addr v : Byte) (bitmap : Bitmap) (on : Bool) :
    counts (byteFrame addr v false on ++ bitmap.toList.flatMap fun b => byteFrame addr b true on)
      = (90, 54, 36, 674100, 918000) := by
  simp [counts_append, counts_byteFrame, Bitmap.toList]

theorem counts_beginEvents (addr fs : Byte) (on : Bool) :
    counts (beginEvents addr fs on) = (79, 43, 35, 53674300, 1063864000) := by
  simp [beginEvents, counts_append, counts_halfFrame, counts_byteFrame, slowHold, counts_cons, counts_nil, Event.counts]

/-- The instruction is carried out and what it appends to the trace has these counts. -/
def EmitsCounts (i : Instr) (s : State) (n : Nat × Nat × Nat × Nat × Nat) : Prop :=
  ∃ t es, exec i s = .next t ∧ t.trace = s.trace ++ es ∧ counts es = n

/-- An operation that emits one byte frame, whatever field it changes (R100). -/
theorem EmitsCounts.of_frame {i : Instr} {s t : State} {addr v : Byte} {rs on : Bool} (h : exec i s = .next t)
    (ht : t.trace = s.trace ++ byteFrame addr v rs on) : EmitsCounts i s (10, 6, 4, 74900, 102000) :=
  ⟨t, _, h, ht, counts_byteFrame addr v rs on⟩

theorem IsControlToggle.exists_mask {on : Bool} {i : Instr} (h : i = .display on ∨ i = .cursor on ∨ i = .blink on) :
    ∃ m, IsControlToggle on i m := by
  rcases h with h | h | h
  · exact ⟨_, .inl ⟨h, rfl⟩⟩
  · exact ⟨_, .inr (.inl ⟨h, rfl⟩)⟩
  · exact ⟨_, .inr (.inr ⟨h, rfl⟩)⟩

theorem IsEntryToggle.exists_mask {on : Bool} {i : Instr} (h : i = .textDir on ∨ i = .autoscroll on) :
    ∃ m, IsEntryToggle on i m := by
  rcases h with h | h
  · exact ⟨_, .inl ⟨h, rfl⟩⟩
  · exact ⟨_, .inr ⟨h, rfl⟩⟩

/-- `min(row, 3, rows - 1)` with the other bracketing (42_display_ops.md R141). -/
theorem cursorRow_eq_min (rows row : Byte) : cursorRow rows row = min row.toNat (min 3 (rows.toNat - 1)) := by
  rw [← clampRow_standard, ← min_assoc]
  rfl

/-- Settles O54: each operation's trace is made of frames and holds, whose counts add up. -/
theorem operationsEmitTheirCounts : Obligations.OperationsEmitTheirCounts := by
  intro s addr on h i events txns holds minNs useNs hi
  suffices key : EmitsCounts i s (events, txns, holds, minNs, useNs) by
    obtain ⟨t, es, ht, htr, hn⟩ := key
    simp only [counts, Prod.mk.injEq] at hn
    exact ⟨t, es, ht, htr, hn⟩
  rcases hi with ⟨rfl, ⟨cols, rows, font, hc, hr, hf⟩, hn⟩ | ⟨⟨d, rfl⟩, hn⟩ | ⟨⟨v, rfl⟩, hn⟩
    | ⟨⟨v, m, rfl⟩ | ⟨v, rfl⟩ | ⟨v, rfl⟩ | ⟨dir, rfl⟩, hn⟩ | ⟨⟨b, f, hb, hf⟩, hn⟩
    | ⟨⟨b, f, hb, hf⟩, hn⟩ | ⟨⟨col, row, rows, offset, rfl, hr, -, ho⟩, hn⟩ | ⟨rfl | rfl, hn⟩
    | ⟨⟨k, m, rfl⟩, hn⟩ | ⟨⟨b, rfl⟩, hn⟩ | ⟨text, rfl, hn⟩ <;> rw [hn]
  · obtain ⟨hp, hb, ha, hbl⟩ := h
    have ht := exec_begin_of_constructed (by rw [hp]; nofun) hb ha hc hr hf hbl
    exact ⟨_, _, ht, rfl, counts_beginEvents addr _ on⟩
  · exact ⟨_, _, exec_xwr_of_ready d h, rfl, rfl⟩
  · exact ⟨_, _, exec_w4_of_ready v h, rfl, counts_nibbleFrame addr v on⟩
  · exact .of_frame (exec_send_of_ready v m h) rfl
  · exact .of_frame (exec_cmd_of_ready v h) rfl
  · exact .of_frame (exec_dat_of_ready v h) rfl
  · exact .of_frame (exec_scroll_of_ready dir h) rfl
  · obtain ⟨m, hm⟩ := IsControlToggle.exists_mask hb
    exact .of_frame (hm.exec_of_ready h hf) rfl
  · obtain ⟨m, hm⟩ := IsEntryToggle.exists_mask hb
    exact .of_frame (hm.exec_of_ready h hf) rfl
  · rw [← cursorRow_eq_min] at ho
    exact .of_frame (exec_setCursor_of_read col row h hr ho) rfl
  · exact ⟨_, _, exec_clear_of_ready h, rfl, counts_slowFrame addr 0x01 on⟩
  · exact ⟨_, _, exec_home_of_ready h, rfl, counts_slowFrame addr 0x02 on⟩
  · exact ⟨_, _, exec_createChar_of_ready k m h, rfl, counts_glyph addr _ m on⟩
  · exact ⟨_, _, exec_backlight_of_ready b h, rfl, rfl⟩
  · exact ⟨_, _, exec_print_of_ready text h, rfl, counts_text addr on text⟩

end Sys2Proof.Machine
end

section
/-! SUPPORT. Proofs of the statements of 41_lifecycle.md: what `CONSTRUCT` writes under every configuration, the twelve
steps of `BEGIN`, and their bytes as R113's table lists them. -/

namespace Sys2Proof.Machine

/-! ## Refusals (60_exceptions.md R153) -/

/-- A request that the table refuses leaves only the refusal's record. -/
theorem exec_of_reasonByTable {i : Instr} {s : State} {r : RefusalReason} (h : reasonByTable i s = some r) :
    exec i s = .next (refuse r s) := by
  rw [exec_eq_execWith, execWith, refusalOf_eq_reasonByTable, h, serve_refused]

/-! ## CONSTRUCT (R110, R111) -/

/-- The expansion of `CONSTRUCT` under any configuration: it emits nothing, and the font flag is the configured one. -/
theorem perform_constructMicros (c : Config) (addr cols rows : Byte) (s : State) :
    perform c (constructMicros c addr cols rows) s = { s.completed [] .done with
      i2cAddress := some addr, columns := some cols, rows := some rows
      charSizeFlag := some c.largeFont, backlightFlag := some true, phase := .constructed } := by
  simp [perform, constructMicros, drain_cons, Micro.stops, Micro.run, FieldWrite.apply, finish, accept,
    State.completed, State.response]

/-- `CONSTRUCT` in an idle block before construction, with at least one row (R110). -/
theorem execWith_construct_of_unconstructed (c : Config) (addr cols : Byte) {rows : Byte} {s : State}
    (hp : s.phase = .unconstructed) (hb : s.busy = false) (hr : rows ≠ 0) :
    execWith c (.construct addr cols rows) s = .next { s.completed [] .done with
      i2cAddress := some addr, columns := some cols, rows := some rows
      charSizeFlag := some c.largeFont, backlightFlag := some true, phase := .constructed } := by
  have hadm : constructAdmission rows s = none := constructAdmission_eq_none.mpr ⟨hb, hp, hr⟩
  calc execWith c (.construct addr cols rows) s
      = serve (constructAdmission rows s) (some (constructMicros c addr cols rows)) (perform c) s := rfl
    _ = .next (perform c (constructMicros c addr cols rows) s) := by rw [hadm, serve_accepted]
    _ = _ := by rw [perform_constructMicros]

/-- Settles O23: the five fields and the phase are the expansion's writes, and R153's table gives the two refusals. -/
theorem constructWritesItsFields : Obligations.ConstructWritesItsFields := by
  refine ⟨fun addr cols rows s hp hb hr => ?_, fun font addr cols rows s hp hb hr => ?_,
    fun addr cols rows s hp hb => ?_, fun addr cols s hp hb => ?_, fun _ _ _ => rfl⟩
  · rw [exec_eq_execWith]
    exact execWith_construct_of_unconstructed standard addr cols hp hb hr
  · exact execWith_construct_of_unconstructed (Config.withLargeFont standard font) addr cols hp hb hr
  · exact exec_of_reasonByTable (by simp [reasonByTable, constructRows, hp, hb])
  · exact exec_of_reasonByTable (by simp [reasonByTable, constructRows, hp, hb])

/-! ## BEGIN (R112, R113) -/

/-- Settles O24: the twelve steps in a constructed block, and the refusal F1 before. -/
theorem beginRunsItsTwelveSteps : Obligations.BeginRunsItsTwelveSteps :=
  ⟨fun _ _ _ _ _ _ hp hb ha hc hr hf hbl => exec_begin_of_constructed hp hb ha hc hr hf hbl,
    fun _ hp hb => exec_of_reasonByTable (by simp [reasonByTable, constructRows, hp, hb]), rfl⟩

/-- A transaction of R113's table, which lists the byte with the backlight on: with it off bit 3 is clear. -/
def listedTxn (addr : Byte) (on : Bool) (b : Byte) : Event :=
  .txn addr (if on then b else b &&& 0xF7)

/-- The five events of a command nibble as the table lists them, with the bytes with enable low and high. -/
def listedPulse (addr : Byte) (on : Bool) (low high : Byte) : List Event :=
  [listedTxn addr on low, listedTxn addr on high, .delay (some 450) 1000, listedTxn addr on low,
    .delay (some 37000) 50000]

/-- The raw byte of step 5 carries the backlight alone. -/
theorem txn_blBit_eq_listedTxn (addr : Byte) (on : Bool) : Event.txn addr (blBit on) = listedTxn addr on 0x08 := by
  cases on <;> rfl

/-- A listed pulse is the half frame of its nibble. -/
theorem halfFrame_eq_listedPulse (addr : Byte) (n : Nibble) (on : Bool) :
    halfFrame addr n false on = listedPulse addr on (n ++ 0x8#4) (n ++ 0xC#4) := by
  have hbytes : ∀ (n : Nibble) (on : Bool),
      xbyteOf n on false false false = (if on then n ++ 0x8#4 else (n ++ 0x8#4) &&& 0xF7)
        ∧ xbyteOf n on true false false = (if on then n ++ 0xC#4 else (n ++ 0xC#4) &&& 0xF7) := by
    decide
  obtain ⟨hlow, hhigh⟩ := hbytes n on
  rw [halfFrame, listedPulse, listedTxn, listedTxn, hlow, hhigh]

/-- The byte step 8 sends (R112): two lines, or one line with the large font or without. -/
theorem functionSetByte_eq {rows : Byte} (font : Bool) (hr : rows ≠ 0) :
    0x20 ||| functionFlagsAfterBegin rows font
      = if 1 < rows.toNat then 0x28 else if font then 0x24 else 0x20 := by
  revert rows; cases font <;> decide

/-- Step 8 as the table lists it: the high nibble is 2, the low nibble depends on the lines and the font. -/
theorem functionSet_frame_eq {rows : Byte} (addr : Byte) (font on : Bool) (hr : rows ≠ 0) :
    byteFrame addr (0x20 ||| functionFlagsAfterBegin rows font) false on
      = listedPulse addr on 0x28 0x2C
        ++ if 1 < rows.toNat then listedPulse addr on 0x88 0x8C
          else if font then listedPulse addr on 0x48 0x4C else listedPulse addr on 0x08 0x0C := by
  rw [functionSetByte_eq font hr, byteFrame, halfFrame_eq_listedPulse, halfFrame_eq_listedPulse]
  split_ifs <;> rfl

/-- Settles O25: the table's events are those of the twelve steps, pulse by pulse, and so are their counts. -/
theorem beginSendsTheTableOfBytes : Obligations.BeginSendsTheTableOfBytes := by
  intro s addr cols rows font on hp hb ha hc hr hrows hf hbl x f es
  have hes : es = beginEvents addr (0x20 ||| functionFlagsAfterBegin rows font) on := by
    rw [beginEvents, functionSet_frame_eq addr font on hrows, txn_blBit_eq_listedTxn]
    simp only [byteFrame, halfFrame_eq_listedPulse]
    simp [es, f, x, listedPulse, listedTxn, slowHold]
  have hn := counts_beginEvents addr (0x20 ||| functionFlagsAfterBegin rows font) on
  simp only [counts, Prod.mk.injEq] at hn
  obtain ⟨hlen, htxns, hholds, hmin, huse⟩ := hn
  rw [hes]
  exact ⟨⟨_, exec_begin_of_constructed hp hb ha hc hr hf hbl, rfl⟩, hlen, htxns, hholds, huse, hmin⟩

end Sys2Proof.Machine
end

section
/-! SUPPORT. Proofs of the statements of 42_display_ops.md: what each display operation sends and writes in a ready
block, the clamp of `SETCURSOR`'s row, the mask of `CREATECHAR`'s slot, and where `PRINT` stops. -/

namespace Sys2Proof.Machine

/-! ## SETCURSOR (R141, R142) -/

/-- Settles O33: the clamped row is the model's, and the sum of bytes is modulo 256. -/
theorem setCursorSendsTheClampedAddress : Obligations.SetCursorSendsTheClampedAddress := by
  refine ⟨fun col row rows offset s addr on h hr _ ho => ?_,
    fun col row => ⟨refusedBeforeBegun_of_admission fun _ => rfl, decodeInvertsEncode (.setCursor col row) rfl⟩⟩
  have hsum : BitVec.ofNat 8 ((col.toNat + offset.toNat) % 256) = col + offset :=
    BitVec.eq_of_toNat_eq (by simp [BitVec.toNat_add])
  rw [← cursorRow_eq_min] at ho
  rw [hsum]
  exact exec_setCursor_of_read col row h hr ho

/-- `SETCURSOR` looks at its row through the clamp alone. -/
theorem exec_setCursor_congr {s : State} {rows row row' : Byte} (col : Byte) (hr : s.rows = some rows)
    (h : cursorRow rows row = cursorRow rows row') : exec (.setCursor col row) s = exec (.setCursor col row') s := by
  have hprog : setCursorProgram standard col row s = setCursorProgram standard col row' s := by
    simp only [setCursorProgram, hr, clampRow_standard, h]
  exact congrArg (fun p => serve (admission .begun s) p (perform standard) s) hprog

/-- Settles O34: both rows clamp to the same line. -/
theorem setCursorClampsRows : Obligations.SetCursorClampsRows := by
  refine fun col row rows s hr hrows => ⟨fun hge => exec_setCursor_congr col hr ?_,
    fun hge => exec_setCursor_congr col hr ?_⟩ <;> rw [cursorRow_eq_min, cursorRow_eq_min]
  · have hlast : (rows - 1).toNat = rows.toNat - 1 := by bv_omega
    omega
  · have hthree : (3 : Byte).toNat = 3 := rfl
    omega

/-! ## CREATECHAR (R143, R144) -/

theorem createCharMicros_isBus (c : Config) (slot : Byte) (bitmap : Bitmap) :
    ∀ m ∈ createCharMicros c slot bitmap, m.isBus = true := by
  intro m hm
  rcases List.mem_append.mp hm with hm | hm
  · exact sendMicros_isBus _ _ _ m hm
  · obtain ⟨b, -, hm⟩ := List.mem_flatMap.mp hm
    exact sendMicros_isBus _ _ _ m hm

/-- `CREATECHAR` does not use what its `DAT`s return, so it acts under every `WRITE_FAILS` as where no write fails. -/
theorem execWith_createChar_of_ready (fails : State → Byte → Bool) (slot : Byte) (bitmap : Bitmap) {s : State}
    {addr : Byte} {on : Bool} (h : s.Ready addr on) :
    execWith (standard.withWriteFails fails) (.createChar slot bitmap) s = exec (.createChar slot bitmap) s := by
  have hbus := createCharMicros_isBus standard slot bitmap
  exact (serve_bus_of_ready (c := standard.withWriteFails fails) h hbus).trans
    (serve_bus_of_ready (c := standard) h hbus).symm

/-- Settles O36: the masked slot's address and the eight bytes, whatever the writes return. -/
theorem createCharSendsAddressAndBitmap : Obligations.CreateCharSendsAddressAndBitmap := by
  refine ⟨fun slot m s addr on fails h => ?_,
    fun slot m => ⟨refusedBeforeBegun_of_admission fun _ => rfl, decodeInvertsEncode (.createChar slot m) rfl⟩⟩
  intro t
  have hexec : exec (.createChar slot m) s = .next t := by
    rw [exec_createChar_of_ready slot m h]
    simp [t, Bitmap.toList, glyphCommand, maskSlot, standard]
  exact ⟨hexec, (execWith_createChar_of_ready fails slot m h).trans hexec⟩

/-- `CREATECHAR` looks at its slot through the mask alone. -/
theorem exec_createChar_congr {slot slot' : Byte} (bitmap : Bitmap) (s : State)
    (h : maskSlot standard slot = maskSlot standard slot') :
    exec (.createChar slot bitmap) s = exec (.createChar slot' bitmap) s := by
  have hprog : createCharMicros standard slot bitmap = createCharMicros standard slot' bitmap := by
    simp only [createCharMicros, glyphCommand, h]
  exact congrArg (fun p => serve (admission .begun s) (s.onBus p) (perform standard) s) hprog

theorem maskSlot_mod_eight : ∀ slot : Byte,
    maskSlot standard slot = maskSlot standard (BitVec.ofNat 8 (slot.toNat % 8)) := by
  decide

/-- Settles O37: a slot and its remainder have the same three low bits. -/
theorem createCharSlotsAlias : Obligations.CreateCharSlotsAlias :=
  fun slot m s => exec_createChar_congr m s (maskSlot_mod_eight slot)

/-! ## PRINT (R146, R147) -/

/-- A text with a failing byte (R147 d): the bytes before it are sent and counted, it is sent, and nothing behind it
is. -/
theorem execWith_print_stops {fails : Byte → Bool} {good : List Byte} {bad : Byte} (more : List Byte) {s : State}
    {addr : Byte} {on : Bool} (hgood : ∀ b ∈ good, fails b = false) (hbad : fails bad = true) (h : s.Ready addr on) :
    execWith (standard.withWriteFails fun _ b => fails b) (.print (good ++ bad :: more)) s
      = .next (s.completed ((good ++ [bad]).flatMap fun b => byteFrame addr b true on) (.count good.length)) := by
  have ⟨_, _, ha, hb⟩ := h
  calc execWith (standard.withWriteFails fun _ b => fails b) (.print (good ++ bad :: more)) s
      = .next (finish (drain (standard.withWriteFails fun _ b => fails b)
          ((good ++ bad :: more).flatMap (countedDatMicros (standard.withWriteFails fun _ b => fails b)))
          (setCount (some 0) (accept s)))) := serve_counted_of_ready h
    _ = .next (s.completed ((good ++ [bad]).flatMap fun b => byteFrame addr b true on) (.count good.length)) := by
      rw [List.flatMap_append, List.flatMap_cons,
        drain_text_append good _ hgood (by simpa using ha) (by simpa using hb) rfl,
        drain_counted_append bad _ (by simpa using ha) (by simpa using hb) rfl, if_pos hbad]
      simp only [setCount_emitAll, setCount_setCount, emitAll_emitAll, Nat.zero_add, finish_counted,
        List.flatMap_append, List.flatMap_singleton]

/-- `PRINT` of the null reference counts nothing and sends nothing (R146). -/
theorem exec_printNull_of_begun {s : State} (hp : s.phase = .begun) (hb : s.busy = false) :
    exec .printNull s = .next (s.completed [] (.count 0)) := by
  have hadm : admission .begun s = none := admission_begun_eq_none.mpr ⟨hb, hp⟩
  calc exec .printNull s
      = serve (admission .begun s) (some [.startCount]) (perform standard) s := rfl
    _ = .next (finish (setCount (some 0) (emitAll [] (accept s)))) := by
      rw [hadm, serve_accepted, emitAll_nil]
      rfl
    _ = .next (s.completed [] (.count 0)) := by rw [finish_counted]

/-- Settles O38: the count is that of the bytes before the first failing one. -/
theorem printSendsTheTextAndCounts : Obligations.PrintSendsTheTextAndCounts :=
  ⟨fun text _ _ _ h => exec_print_of_ready text h, fun _ hp hb => exec_printNull_of_begun hp hb,
    fun _ _ _ more _ _ _ h hgood hbad => execWith_print_stops more hgood hbad h,
    fun _ => refusedBeforeBegun_of_admission fun _ => rfl, refusedBeforeBegun_of_admission fun _ => rfl,
    fun text hlen => decodeInvertsEncode (.print text) (decide_eq_true hlen), decodeInvertsEncode .printNull rfl⟩

/-! ## CLEAR, HOME and SCROLL (R120, R121, R136) -/

/-- Settles O28: a command byte frame and the slow hold. -/
theorem clearAndHomeSendAndHold : Obligations.ClearAndHomeSendAndHold :=
  ⟨fun _ _ _ h => ⟨exec_clear_of_ready h, exec_home_of_ready h⟩,
    refusedBeforeBegun_of_admission fun _ => rfl, refusedBeforeBegun_of_admission fun _ => rfl,
    decodeInvertsEncode .clear rfl, decodeInvertsEncode .home rfl⟩

/-- R136's byte: CURSORSHIFT, DISPLAYMOVE and the direction bit. -/
theorem scrollCommand_standard (dir : Direction) :
    scrollCommand standard dir = if dir = .right then 0x1C else 0x18 := by
  cases dir <;> rfl

/-- Settles O32: a command byte frame of the direction's byte. -/
theorem scrollSendsCursorShift : Obligations.ScrollSendsCursorShift :=
  ⟨fun dir _ _ _ h => scrollCommand_standard dir ▸ exec_scroll_of_ready dir h,
    fun _ => refusedBeforeBegun_of_admission fun _ => rfl,
    decodeInvertsEncode (.scroll .left) rfl, decodeInvertsEncode (.scroll .right) rfl⟩

/-! ## BACKLIGHT (R123) -/

/-- Settles O29: the raw byte carries the new flag, and no field that readiness asks for changes but the flag. -/
theorem backlightSetsTheFlagAndPushesIt : Obligations.BacklightSetsTheFlagAndPushesIt :=
  ⟨fun on _ _ _ h =>
      have ⟨hp, _, ha, _⟩ := h
      ⟨_, exec_backlight_of_ready on h, rfl, hp, rfl, ha, rfl⟩,
    fun _ => refusedBeforeBegun_of_admission fun _ => rfl,
    decodeInvertsEncode (.backlight false) rfl, decodeInvertsEncode (.backlight true) rfl⟩

/-! ## The toggles (R124, R126 to R128, R131, R132) -/

theorem encodeBool_eq_ite (on : Bool) : encodeBool on = if on then 0x01 else 0x00 := by
  cases on <;> rfl

/-- A request of one Boolean operand is encoded with 00 or 01 (30_encoding.md R72). -/
theorem encodedAs_bool {i : Instr} {op : Byte} {on : Bool} (henc : encode i = .request [op, encodeBool on])
    (hwf : i.wf = true) : EncodedAs i [op, if on then 0x01 else 0x00] := by
  rw [EncodedAs, ← encodeBool_eq_ite, ← henc]
  exact decodeInvertsEncode i hwf

/-- Settles O30: the three toggles of `control_flags`, each with its bit. -/
theorem controlTogglesReissueDisplayControl : Obligations.ControlTogglesReissueDisplayControl :=
  ⟨fun _ _ _ _ _ h hf => ⟨IsControlToggle.exec_of_ready (.inl ⟨rfl, rfl⟩) h hf,
      IsControlToggle.exec_of_ready (.inr (.inl ⟨rfl, rfl⟩)) h hf,
      IsControlToggle.exec_of_ready (.inr (.inr ⟨rfl, rfl⟩)) h hf⟩,
    fun _ => ⟨refusedBeforeBegun_of_admission fun _ => rfl, refusedBeforeBegun_of_admission fun _ => rfl,
      refusedBeforeBegun_of_admission fun _ => rfl⟩,
    fun _ => ⟨encodedAs_bool rfl rfl, encodedAs_bool rfl rfl, encodedAs_bool rfl rfl⟩⟩

/-- `BEGIN` from a state of the invariant leaves ENTRYLEFT alone in `entry_mode_flags` (41_lifecycle.md R112, step
11). -/
theorem Inv.exec_begin_entryModeFlags {s t : State} (hs : Inv s) (hp : s.phase ≠ .unconstructed)
    (h : exec .begin s = .next t) : t.entryModeFlags = some 0x02 := by
  obtain ⟨⟨addr, ha⟩, ⟨cols, hc⟩, ⟨rows, hr, -⟩, ⟨font, hf⟩, on, hbl⟩ := hs.configured hp
  rw [exec_begin_of_constructed hp hs.idle.1 ha hc hr hf hbl] at h
  cases h
  rfl

/-- Settles O31: the two toggles of `entry_mode_flags`, each with its bit, and the value `BEGIN` leaves. -/
theorem entryTogglesReissueEntryModeSet : Obligations.EntryTogglesReissueEntryModeSet := by
  refine ⟨fun _ _ _ _ _ h hf => ⟨IsEntryToggle.exec_of_ready (.inl ⟨rfl, rfl⟩) h hf,
      IsEntryToggle.exec_of_ready (.inr ⟨rfl, rfl⟩) h hf⟩,
    fun _ => ⟨refusedBeforeBegun_of_admission fun _ => rfl, refusedBeforeBegun_of_admission fun _ => rfl⟩,
    fun _ => ⟨encodedAs_bool rfl rfl, encodedAs_bool rfl rfl⟩,
    fun s t f hs hp h hf => ?_⟩
  cases (hs.exec_begin_entryModeFlags hp h).symm.trans hf
  exact ⟨rfl, rfl⟩

end Sys2Proof.Machine
end

section
/-! SUPPORT. Proofs of the statements of 60_exceptions.md: the refusals of R153 in R154's order, that every instruction
ends in a next state, and that nothing reads what the transport does with a failure. -/

namespace Sys2Proof.Machine

/-! ## Refusal and completion (R150, R153, R154, R156) -/

/-- Settles O12: the machine's admission is the table's reason, and a refused request leaves only the refusal's
record. -/
theorem execRefusesForTheFirstReason : Obligations.ExecRefusesForTheFirstReason :=
  fun _ _ _ h => exec_of_reasonByTable h

/-- A request that is served is refused or run, and either leaves a next state. -/
theorem exists_serve_eq_next (adm : Option RefusalReason) (p : Option Program) (go : Program → State → State)
    (s : State) : ∃ t, serve adm p go s = .next t :=
  match adm, p with
  | some r, _ => ⟨_, serve_refused r _ go s⟩
  | none, some q => ⟨_, serve_accepted q go s⟩
  | none, none => ⟨_, serve_unwritten go s⟩

/-- Settles O14: every instruction is served. -/
theorem execAlwaysAnswersNext : Obligations.ExecAlwaysAnswersNext := by
  intro i s
  rw [exec_eq_execWith]
  exact exists_serve_eq_next _ _ _ s

/-! ## The transport's failures (R152) -/

section
variable (c : Config) (o : BusOutcome)

/-- No expansion is made from the transport's outcome. -/
theorem programOf_withBusOutcome (i : Instr) (s : State) :
    programOf (c.withBusOutcome o) i s = programOf c i s := by
  cases i <;> rfl

/-- A counted write fails as `WRITE_FAILS` says, whatever the transport does with the failure. -/
theorem stops_withBusOutcome (m : Micro) (s : State) : m.stops (c.withBusOutcome o) s = m.stops c s := by
  cases m <;> rfl

theorem run_withBusOutcome (m : Micro) (s : State) : m.run (c.withBusOutcome o) s = m.run c s := by
  cases m <;> rfl

theorem drain_withBusOutcome (p : Program) (s : State) : drain (c.withBusOutcome o) p s = drain c p s := by
  induction p generalizing s with
  | nil => rfl
  | cons m p ih => rw [drain_cons, drain_cons, stops_withBusOutcome, run_withBusOutcome, ih]

theorem perform_withBusOutcome : perform (c.withBusOutcome o) = perform c := by
  funext p s
  rw [perform, perform, drain_withBusOutcome]

end

/-- Settles O55: admission takes no configuration, the expansion is the same program, and it runs the same way. -/
theorem busOutcomeChangesNothing : Obligations.BusOutcomeChangesNothing := by
  intro c o i s
  rw [execWith, execWith, programOf_withBusOutcome, perform_withBusOutcome]

end Sys2Proof.Machine
end

section
/-! SUPPORT. Proofs of the statements of 70_reset_and_hazards.md: what power-on leaves, the least time the bring-up
holds, and the whole enable pulses of every operation. -/

namespace Sys2Proof.Machine

/-! ## Power-on (R170) -/

/-- Settles O1: the reset state meets the invariant, whose clause on phase Unconstructed leaves every field without a
value and the trace empty. -/
theorem resetHoldsNoValue : Obligations.ResetHoldsNoValue := by
  obtain ⟨hconfig, hpop, htrace⟩ := Inv.unconstructed resetMeetsTheInvariant rfl
  exact ⟨hconfig, hpop, rfl, rfl, rfl, htrace, rfl⟩

/-! ## The least time of the holds (R176, R177, R181) -/

/-- The first events of the bring-up: the channel, the power hold, the raw byte and the settle hold. -/
theorem take_four_beginEvents (addr fs : Byte) (on : Bool) :
    (beginEvents addr fs on).take 4
      = [.openChannel, .delay (some 40000000) 50000000, .txn addr (blBit on), .delay none 1000000000] := rfl

theorem promisedHoldNs_halfFrame (addr : Byte) (n : Nibble) (rs on : Bool) :
    promisedHoldNs (halfFrame addr n rs on) = 37450 := by
  simp [halfFrame, promisedHoldNs, Event.promisedNs]

theorem promisedHoldNs_byteFrame (addr v : Byte) (rs on : Bool) : promisedHoldNs (byteFrame addr v rs on) = 74900 := by
  rw [byteFrame, promisedHoldNs_append, promisedHoldNs_halfFrame, promisedHoldNs_halfFrame]

theorem promisedHoldNs_delay (m : Option Nat) (u : Nat) : promisedHoldNs [.delay m u] = m.getD u := by
  cases m <;> rfl

/-- The bring-up's raw byte with the holds around it; the settle hold has no minimum and counts at its use value. -/
theorem promisedHoldNs_powerUp (addr : Byte) (on : Bool) :
    promisedHoldNs
      [.openChannel, .delay (some 40000000) 50000000, .txn addr (blBit on), .delay none 1000000000] = 1040000000 := by
  simp [promisedHoldNs, Event.promisedNs]

/-- The twelve steps together, whatever FUNCTIONSET byte is sent. -/
theorem promisedHoldNs_beginEvents (addr fs : Byte) (on : Bool) :
    promisedHoldNs (beginEvents addr fs on) = 1053674300 := by
  simp only [beginEvents, slowHold, promisedHoldNs_append, promisedHoldNs_powerUp, promisedHoldNs_halfFrame,
    promisedHoldNs_byteFrame, promisedHoldNs_delay, Option.getD_some]

/-- Settles O26: what `BEGIN` appends is the events of its twelve steps. -/
theorem beginHoldsItsLeastTimes : Obligations.BeginHoldsItsLeastTimes := by
  intro s addr cols rows font on hp hb ha hc hr hf hbl
  exact ⟨_, _, exec_begin_of_constructed hp hb ha hc hr hf hbl, rfl, take_four_beginEvents addr _ on,
    promisedHoldNs_beginEvents addr _ on⟩

/-! ## Enable pulses (R174) -/

/-- The raw byte of the backlight alone has enable low. -/
theorem wellPulsed_blBit (addr : Byte) (on : Bool) : wellPulsed [.txn addr (blBit on)] = true := by
  cases on <;> rfl

/-- `W4`'s frame is a whole pulse where the operand does not raise enable itself: its first and last byte are the
operand with the backlight, its second that with enable. -/
theorem wellPulsed_nibbleFrame (addr : Byte) {v : Byte} (on : Bool) (hv : v &&& 0x04 = 0) :
    wellPulsed (nibbleFrame addr v on) = true := by
  have hbytes : (v ||| blBit on) &&& 0x04 = 0 ∧ v ||| 0x04 ||| blBit on = v ||| blBit on ||| 0x04
      ∧ v &&& 0xFB ||| blBit on = v ||| blBit on := by
    cases on <;> revert v <;> decide
  simpa [nibbleFrame, wellPulsed, and_assoc] using hbytes

/-- `W4` is refused, or emits its nibble frame (40_sequencer_core.md R93). -/
theorem exec_w4_cases {v : Byte} {s t : State} (h : exec (.w4 v) s = .next t) :
    (∃ r, t = refuse r s) ∨ ∃ addr on, t = s.completed (nibbleFrame addr v on) .done := by
  obtain ⟨r, rfl⟩ | ⟨-, p, hp, rfl⟩ := exec_cases h
  · exact .inl ⟨r, rfl⟩
  · obtain ⟨rfl, ⟨addr, ha⟩, on, hbl⟩ := onBus_eq_some hp
    exact .inr ⟨addr, on, perform_bus (w4Micros_isBus standard v) ha hbl⟩

/-- Settles O53: an operation of tiers 2 and 3 emits nothing, the raw byte of the backlight, or a composed trace; `W4`
emits nothing or its nibble frame. -/
theorem enablePulsesAreWhole : Obligations.EnablePulsesAreWhole := by
  rintro i s t es (hi | ⟨v, rfl, hv⟩) h htr
  · obtain rfl | ⟨addr, on, -, rfl | hcomp⟩ := exec_composes_events hi h htr
    · rfl
    · exact wellPulsed_blBit addr on
    · exact hcomp.wellPulsed
  · obtain ⟨r, rfl⟩ | ⟨addr, on, rfl⟩ := exec_w4_cases h
    · obtain rfl : es = [] := List.self_eq_append_right.mp htr
      rfl
    · obtain rfl : nibbleFrame addr v on = es := List.append_cancel_left htr
      exact wellPulsed_nibbleFrame addr on hv

end Sys2Proof.Machine
end
